-- ==== Sys2Proof/Word.lean ====
section
/-!
DEFINITION. The words of ICF3-Z: bytes, nibbles, program addresses, instruction words, and the
byte made of eight bits by concatenation (00_scope.md R8: bit 31 is the most significant bit).
-/

namespace Sys2Proof

/-- A register or a byte of data memory (10_state.md R11, R28). -/
abbrev Byte := BitVec 8

/-- A 4-bit field: X, Z, the loop counter I, a bank number (30_encoding.md R68). -/
abbrev Nibble := BitVec 4

/-- A program address: it counts 32-bit words (10_state.md R17). -/
abbrev Addr := BitVec 16

/-- A word of program memory (10_state.md R29). -/
abbrev Word := BitVec 32

/-- A truth value as a one-bit vector. -/
abbrev bit (x : Bool) : BitVec 1 := BitVec.ofBool x

end Sys2Proof
end

