-- ==== Sys2Proof/Config.lean ====
section
/-!
DEFINITION. What an implementation fixes (00_scope.md R6 and the parameter table of
92_eei_decisions.md), and the free values: constants without a body, so that nothing can be proved
of what they are (00_scope.md R8: `any8`).
-/

namespace Sys2Proof

/-- What happens when a request is present while a transfer is pending (60_exceptions.md R235). -/
inductive IrqInSlot where
  /-- The run is refused there (the spec's default). -/
  | refuse
  /-- The instruction executes and the lines are looked at again before the next one. -/
  | defer
deriving DecidableEq, Repr

/-- VARIANT_BIT: which bit tells the two mnemonics of the opcodes 2 to 7 apart (30_encoding.md R69). A bit
of 24..16 not used otherwise: bit 23 is `B=LSH`, the one field allowed beside a 16-bit address (R64). -/
inductive VariantBit where
  | bit16 | bit17 | bit18 | bit19 | bit20 | bit21 | bit22 | bit24
deriving DecidableEq, Repr

/-- What a divide step computes from (40_datapath_fields.md R99; DivStep in 92_eei_decisions.md). The
divisor is the right adder input as the adder sees it, inverter included (DEDUCED, log 19). -/
structure DivIn where
  a : Byte
  b : Byte
  divisor : Byte
  cin : Bool
deriving DecidableEq, Repr

/-- What a divide step computes: ANS and the quotient bit (40_datapath_fields.md R99). -/
structure DivOut where
  ans : Byte
  q : Bool
deriving DecidableEq, Repr

/-- DivStep: a function from `DivIn` to `DivOut`, as plain data: the inputs at which it differs from
40_datapath_fields.md R99, each with its result. The empty list, the default, is R99 itself; `DivIn` is
finite, so every function is such a list (log 19). -/
abbrev DivStep := List (DivIn × DivOut)

/-- ShiftIn: the bit that enters C under `C=LSH` when `ADDL=DIVA` is not selected (40_datapath_fields.md
R105). The spec names no value but its default; the two others are the model's (log 19). -/
inductive ShiftIn where
  /-- The adder's carry out (the spec's default). -/
  | cout
  /-- The same bit always. -/
  | fixed (v : Bool)
  /-- Any bit, drawn anew each time: a claim that holds under it holds whatever bit enters. -/
  | unknown
deriving DecidableEq, Repr

/-- What OUTPUTK puts on the port when its immediate is above 15 (44_io_opcodes.md R210). -/
inductive OutputkImm where
  /-- The instruction is refused (the spec's default). -/
  | refuse
  /-- The whole byte N. -/
  | n8
  /-- Z, extended with zeros. -/
  | z4
deriving DecidableEq, Repr

/-- The parameters of a run (00_scope.md R6; 92_eei_decisions.md). The number of I/O ports is 256
by the 8-bit port id and is no field. -/
structure Config where
  /-- SPAD_BYTES: the size of the scratchpad. -/
  spadBytes : Nat
  /-- DMEM_BYTES: the size of data memory, scratchpad included. -/
  dmemBytes : Nat
  /-- PMEM_WORDS: the size of program memory in 32-bit words. -/
  pmemWords : Nat
  /-- PMEM_IS_ROM: no instruction writes program memory either way (20_memory.md R52). -/
  pmemIsRom : Bool
  /-- STACK_DEPTH: the number of return-stack entries. -/
  stackDepth : Nat
  /-- NUM_BANKS: the number of general-register banks. -/
  numBanks : Nat
  /-- JCALL_RET: what JCALL adds to its address to make the return address (42_control_transfer.md R170). -/
  jcallRet : Nat
  /-- IRA_READ_OFFSET: what INPUT adds to the interrupt return address (60_exceptions.md R236). -/
  iraReadOffset : Nat
  /-- IRQ_IN_SLOT (60_exceptions.md R235). -/
  irqInSlot : IrqInSlot
  /-- OUTPUTK_IMM (44_io_opcodes.md R210). -/
  outputkImm : OutputkImm
  /-- VARIANT_BIT (30_encoding.md R69). -/
  variantBit : VariantBit
  /-- DivStep (40_datapath_fields.md R99). -/
  divStep : DivStep
  /-- ShiftIn (40_datapath_fields.md R105). -/
  shiftIn : ShiftIn
deriving DecidableEq, Repr

/-- The legal values of the parameters: 00_scope.md R6 and the parameter table of
92_eei_decisions.md. The parameters it does not name have legal values only. -/
abbrev Config.Legal (k : Config) : Prop :=
  (k.spadBytes = 32 ∨ k.spadBytes = 128 ∨ k.spadBytes = 256) ∧
  k.spadBytes ≤ k.dmemBytes ∧ k.dmemBytes ≤ 65536 ∧
  1 ≤ k.pmemWords ∧ k.pmemWords ≤ 65536 ∧
  (k.stackDepth = 4 ∨ k.stackDepth = 8 ∨ k.stackDepth = 16) ∧
  2 ≤ k.numBanks ∧ 16 * k.numBanks ≤ k.spadBytes ∧
  (k.jcallRet = 1 ∨ k.jcallRet = 2) ∧ k.iraReadOffset ≤ 1

/-- The places where one step may draw an unknown byte; each place draws a value of its own. -/
inductive Draw where
  /-- REG in the cases of 40_datapath_fields.md R112. -/
  | reg
  /-- A byte of data memory that nothing has written (10_state.md R34). -/
  | memory
  /-- A port read past the answers the state holds (44_io_opcodes.md R205). -/
  | port
  /-- A byte of the readable interrupt return address while it is unknown (44_io_opcodes.md R212). -/
  | irav
  /-- The bit that enters C under `C=LSH` where ShiftIn is `unknown` (40_datapath_fields.md R105). -/
  | shiftIn
deriving DecidableEq, Repr

/-- `any8` (00_scope.md R8): an unknown byte, one for each draw index and each place. No body: a
claim that holds, holds whatever it is. -/
opaque Config.any8 : Nat → Draw → Byte

end Sys2Proof
end

