-- ==== Sys2Proof/Machine/Params.lean ====
section
/-!
DEFINITION. The parameters and the register bytes that the reset state takes where the spec leaves
them to the run (92_eei_decisions.md, table of parameters; log 2 to 7, 9, 19).
-/

namespace Sys2Proof.Machine

/-- The configuration of the reset state: every parameter at its default in 00_scope.md R6 and the
parameter table of 92_eei_decisions.md. -/
def resetConfig : Config :=
  { spadBytes := 256, dmemBytes := 256, pmemWords := 65536, pmemIsRom := true, stackDepth := 4,
    numBanks := 2, jcallRet := 1, iraReadOffset := 0, irqInSlot := .refuse, outputkImm := .refuse,
    variantBit := .bit16, divStep := [], shiftIn := .cout }

/-- The general registers of both banks, bytes 0 to 31 of data memory (10_state.md R12), each at the
value the model names for reset (DESIGN CHOICE, log 7). -/
def resetRegisters : List (Nat × Byte) := (List.range 32).map fun k => (k, 0#8)

end Sys2Proof.Machine
end

