-- ==== Sys2Proof/Syntax.lean ====
section
/-!
DEFINITION. The instructions: one constructor of `Instr` for each of the 40 rows of
spec/opcode_table.json, over the decoded record of 30_encoding.md R62.
-/

namespace Sys2Proof

/-- RMODE, bits 17..16: how the read and write addresses are made (30_encoding.md R75). -/
inductive RMode where
  /-- Default: X reads and Z writes a general register (20_memory.md R43). -/
  | xz
  /-- `R(N)` (20_memory.md R44). -/
  | n
  /-- `R(ADDR)` (20_memory.md R45). -/
  | addr
  /-- `R(REGADDR)` (20_memory.md R46). -/
  | regAddr
deriving DecidableEq, Repr

/-- ADDRSEL, bits 13..12: the right adder input (30_encoding.md R76). -/
inductive AddrSel where
  | zero | b | c | d
deriving DecidableEq, Repr

/-- ADDLSEL, bits 11..10: the left adder input (30_encoding.md R77). -/
inductive AddlSel where
  | zero | a | diva | n
deriving DecidableEq, Repr

/-- What B or C takes (30_encoding.md R72). -/
inductive Src where
  | keep | ans | lsh | rsh | reg
deriving DecidableEq, Repr

/-- BCSEL, bits 23..20: the sixteen rows of the table of 30_encoding.md R72, in its order. -/
inductive BcSel where
  | keep | cAns | cLsh | cRsh
  | bAns | bAnsCAns | bAnsCLsh | bAnsCRsh
  | bLsh | bLshCAns | bLshCLsh | bReg
  | bRsh | bRshCAns | cReg | bRshCRsh
deriving DecidableEq, Repr

/-- The parallel fields of a normal word of the plain or LOOP form (30_encoding.md R61, R62). -/
structure Fields where
  /-- COPR, bit 30: bits 7..0 are replaced by CO. -/
  copr : Bool
  /-- `A=ANS`, bit 24. -/
  aans : Bool
  /-- BCSEL, bits 23..20. -/
  bc : BcSel
  /-- `D=ANS`, bit 19. -/
  dans : Bool
  /-- STORE, bit 18. -/
  store : Bool
  /-- RMODE, bits 17..16. -/
  rmode : RMode
  /-- MUL, bit 15. -/
  mul : Bool
  /-- NOT, bit 14. -/
  inv : Bool
  /-- ADDRSEL, bits 13..12. -/
  addr : AddrSel
  /-- ADDLSEL, bits 11..10. -/
  addl : AddlSel
  /-- CF, bit 9. -/
  cfin : Bool
  /-- ONE, bit 8. -/
  one : Bool
  /-- Bits 7..0 of the word itself: N, X and Z, or LOOP's REL. -/
  low : Byte
deriving DecidableEq, Repr

/-- The fields of the all-zero word (30_encoding.md R83). -/
def Fields.bare : Fields :=
  { copr := false, aans := false, bc := .keep, dans := false, store := false, rmode := .xz,
    mul := false, inv := false, addr := .zero, addl := .zero, cfin := false, one := false, low := 0 }

/-- The instructions. A plain-form instruction carries the fields; an address-form instruction
carries the one field allowed beside its address, `B=LSH`, and the address (30_encoding.md R64);
LOOP's distance REL is its fields' low byte (R65); a compressed instruction carries its 7-bit opcode
and its operand (R67). -/
inductive Instr where
  | nop (f : Fields)
  | iX (f : Fields)
  | b (lsh : Bool) (target : Addr)
  | jb (lsh : Bool) (target : Addr)
  | bcf0 (lsh : Bool) (target : Addr)
  | bcf1 (lsh : Bool) (target : Addr)
  | bzf0 (lsh : Bool) (target : Addr)
  | bzf1 (lsh : Bool) (target : Addr)
  | bc0 (lsh : Bool) (target : Addr)
  | bc1 (lsh : Bool) (target : Addr)
  | call (lsh : Bool) (target : Addr)
  | jcall (lsh : Bool) (target : Addr)
  | call0 (lsh : Bool) (target : Addr)
  | call1 (lsh : Bool) (target : Addr)
  | ret (f : Fields)
  | jret (f : Fields)
  | ret0 (f : Fields)
  | ret1 (f : Fields)
  | loop (f : Fields)
  | wait (f : Fields)
  | dReg (f : Fields)
  | undefined15 (f : Fields)
  | add (f : Fields)
  | and (f : Fields)
  | xor (f : Fields)
  | or (f : Fields)
  | mov (f : Fields)
  | regbank (f : Fields)
  | enable (f : Fields)
  | disable (f : Fields)
  | returni (f : Fields)
  | popsp (f : Fields)
  | iostrobe (f : Fields)
  | outputk (f : Fields)
  | inputoutput (f : Fields)
  | input (f : Fields)
  | output (f : Fields)
  | undefined31 (f : Fields)
  | compressedUpper (cop : BitVec 7) (copd : Byte)
  | compressedLower (cop : BitVec 7) (copd : Byte)
deriving DecidableEq, Repr

end Sys2Proof
end

