-- ==== Sys2Proof/Machine/State.lean ====
section
/-!
DEFINITION. The state of the machine (10_state.md R10) with the parameters of a run (R29, R32 and
00_scope.md R6), the reasons a step can stop, and the state after reset (R33).
-/

namespace Sys2Proof.Machine

/-- A memory of `w`-bit units: the addresses that hold a known value, in rising order. An address that
is not listed has no known value. -/
abbrev Memory (w : Nat) := List (Nat × BitVec w)

/-- A delayed transfer that is decided and not yet taken (10_state.md R18): how many slot
instructions still execute, and where control goes after them. -/
inductive Delayed where
  /-- One slot instruction is left. -/
  | one (target : Addr)
  /-- Two slot instructions are left (LOOP). -/
  | two (target : Addr)
deriving DecidableEq, Repr

/-- The events of the port interface (44_io_opcodes.md R205). `v` is the byte taken from the port, and
`none` when the selector took none. -/
inductive IoEvent where
  | ioStrobe (id out : Byte)
  | readStrobe (id out : Byte) (v : Option Byte)
  | writeStrobe (id data : Byte)
  | writeStrobeK (id data : Byte)
  | readWriteStrobe (id data : Byte) (v : Option Byte)
deriving DecidableEq, Repr

/-- The state. -/
structure State where
  /-- Operation register A (10_state.md R11). -/
  a : Byte
  /-- Operation register B: also the port id (R11, 44_io_opcodes.md R206). -/
  b : Byte
  /-- Operation register C (R11). -/
  c : Byte
  /-- Operation register D: also the port output (R11, 44_io_opcodes.md R206). -/
  d : Byte
  /-- The carry flag CF (R14). -/
  cf : Bool
  /-- The zero flag ZF (R15). -/
  zf : Bool
  /-- The loop counter I (R16). -/
  i : Nibble
  /-- The program counter, in words (R17). -/
  pc : Addr
  /-- The pending delayed transfer (R18). -/
  pend : Option Delayed
  /-- IND: the instruction about to execute is the one at address 1, on the way through an indirect
  jump (R18, 42_control_transfer.md R176). -/
  ind : Bool
  /-- REG: the byte the previous instruction read (R19). -/
  reg : Byte
  /-- CO: the operand of the last compressed instruction started (R21). -/
  co : Byte
  /-- HL: the lower half of the compressed word is next (R22). -/
  hl : Bool
  /-- The return stack STK, top first (R23). -/
  stk : List Addr
  /-- BANK (R13). -/
  bank : Nibble
  /-- IE: interrupts are enabled (R25). -/
  ie : Bool
  /-- INS: an interrupt is in service (R26). -/
  ins : Bool
  /-- GR: one instruction of grace after RETURNI (R26). -/
  gr : Bool
  /-- SEQ: the last step fell through to pc + 1 (R27). -/
  seq : Bool
  /-- IRA: the interrupt return address (R27). -/
  ira : Addr
  /-- IRAV: what INPUT reads for IRA, 16 bits or unknown (R27). -/
  irav : Option Addr
  /-- CIP: no compressed instruction is in progress, or the stack depth right after its call (R22). -/
  cip : Option Nat
  /-- Data memory, the general registers of every bank among it (R28, R12). -/
  dmem : Memory 8
  /-- Program memory (R29). -/
  pmem : Memory 32
  /-- The configuration (00_scope.md R6). -/
  cfg : Config
  /-- The level of interrupt line 0 at this step (R32). -/
  irq0 : Bool
  /-- The level of interrupt line 1 at this step (R32). -/
  irq1 : Bool
  /-- The levels of the two lines at the steps that follow; they stay as they are past its end. -/
  irqNext : List (Bool × Bool)
  /-- The bytes the environment will present to port reads, in order (R32, 44_io_opcodes.md R205). -/
  portIn : List Byte
  /-- The output trace, in execution order (44_io_opcodes.md R205). -/
  trace : List IoEvent
  /-- The model's own counter: the index of the next free values (log 11). -/
  draws : Nat
deriving DecidableEq, Repr

/-- An access to something that does not exist. Safe: the spec gives such an access no outcome
(93_implementation_defined.md), and no claim about a next state can rest on one. -/
inductive Fault where
  /-- A data address outside implemented memory (20_memory.md R47). Raised by every instruction that
  reads or writes data memory. Safe. -/
  | dataAddress
  /-- A fetch at or above PMEM_WORDS (10_state.md R17). Raised by the fetch. Safe. -/
  | fetchOutside
  /-- A fetch of a program word that was never loaded (log 10). Raised by the fetch. Safe. -/
  | programWordNotLoaded
deriving DecidableEq, Repr

/-- A case to which the spec gives no meaning (`UNSPECIFIED`, 00_scope.md R8), one constructor for each
reason. All are safe: the model has no next state there. -/
inductive Refusal where
  /-- An instruction without a meaning in this model. Raised by exec's arm. -/
  | notModelled (mnemonic : String)
  /-- Opcodes 15 and 31 (41_opcodes_alu_misc.md R133). -/
  | undefinedOpcode
  /-- A field beside a 16-bit address (30_encoding.md R64). Raised by the decoder. -/
  | fieldWithAddress
  /-- COPR in a branch (30_encoding.md R66). Raised by the decoder, and by LOOP. -/
  | coprInBranch
  /-- MUL with ADDL=DIVA (40_datapath_fields.md R93). -/
  | mulWithDiva
  /-- MUL under AND, XOR, OR (40_datapath_fields.md R93). -/
  | mulUnderLogic
  /-- ADDL=DIVA under AND, XOR, OR (40_datapath_fields.md R96). -/
  | divaUnderLogic
  /-- B=RSH or C=LSH where ANS is not the sum, or C=RSH under an input (40_datapath_fields.md R96). -/
  | shiftUnderNonAdding
  /-- NOT with R(ADDR) or R(REGADDR) (20_memory.md R45, R46). -/
  | notWithAddressMode
  /-- STORE with REGBANK (41_opcodes_alu_misc.md R140). -/
  | storeWithRegbank
  /-- REGBANK to a bank that is not implemented (41_opcodes_alu_misc.md R140). -/
  | bankNotImplemented
  /-- A push on a full return stack (10_state.md R24). -/
  | stackOverflow
  /-- A pop or a read of the top of an empty return stack (10_state.md R24). -/
  | stackUnderflow
  /-- A transfer, LOOP, WAIT or RETURNI in a delay slot (42_control_transfer.md R153). -/
  | transferInSlot
  /-- A call to address 1 (42_control_transfer.md R162, R176). -/
  | callToAddressOne
  /-- Address 1 reached by LOOP, by a return or by falling into it (42_control_transfer.md R176). -/
  | reachedAddressOne
  /-- The word at address 1 is not the bare NOP when an indirect jump passes through it
  (42_control_transfer.md R176). -/
  | addressOneNotNop
  /-- A compressed word in a delay slot (43_compressed.md R192). -/
  | compressedInSlot
  /-- A compressed word in an interrupt handler (43_compressed.md R192). -/
  | compressedInHandler
  /-- A compressed word while a compressed instruction is in progress (43_compressed.md R198). -/
  | compressedNested
  /-- A compressed word whose bit 15 is 0, visited for its lower half (43_compressed.md R193). Raised
  by the decoder. -/
  | lowHalfNotCompressed
  /-- INPUT or INPUTOUTPUT with a selector of 5 or more (44_io_opcodes.md R212). -/
  | inputSelector
  /-- OUTPUTK with an immediate above 15 where OUTPUTK_IMM is `refuse` (44_io_opcodes.md R210). -/
  | outputkImmediate
  /-- ENABLE in a handler (60_exceptions.md R232). -/
  | enableInHandler
  /-- DISABLE in a handler (60_exceptions.md R233). -/
  | disableInHandler
  /-- RETURNI outside a handler (60_exceptions.md R240). -/
  | returniOutsideHandler
  /-- The word after a RETURNI is not the bare NOP (60_exceptions.md R240). -/
  | noNopAfterReturni
  /-- An interrupt request inside a delayed transfer where IRQ_IN_SLOT is `refuse`
  (60_exceptions.md R235). Raised by the step. -/
  | irqInTransfer
deriving DecidableEq, Repr

/-- The outcome of an instruction or of a step. -/
abbrev Result := Host.Outcome State Fault Refusal

/-- The machine right after reset (10_state.md R33). pc, pend, IND, HL, STK, INS, GR, SEQ and CIP are
the table's; IRAV is unknown, as the table says; every other register holds the value log 7 names,
the inputs are those of log 12 and log 13. -/
def State.reset : State :=
  { a := 0, b := 0, c := 0, d := 0, cf := false, zf := false, i := 0
    pc := 0, pend := none, ind := false, reg := 0, co := 0, hl := false, stk := [], bank := 0
    ie := false, ins := false, gr := false, seq := false, ira := 0, irav := none, cip := none
    dmem := resetRegisters, pmem := [], cfg := resetConfig
    irq0 := false, irq1 := false, irqNext := [], portIn := [], trace := [], draws := 0 }

end Sys2Proof.Machine
end

