-- ==== Sys2Proof/Machine/Operands.lean ====
section
/-!
DEFINITION. The operand forms of a normal instruction: the low byte and its readings, the two adder
inputs and the carry-in, the read and write addresses, what B and C select. All values are those
before the instruction (40_datapath_fields.md R91).
-/

namespace Sys2Proof.Machine

/-- Bits 7..0 of the instruction register: CO under COPR (30_encoding.md R62, R66). This is N. -/
def lowByte (f : Fields) (s : State) : Byte := if f.copr then s.co else f.low

/-- X, bits 7..4 (30_encoding.md R63). -/
def xNum (f : Fields) (s : State) : Nibble := (lowByte f s).extractLsb' 4 4

/-- Z, bits 3..0 (30_encoding.md R63). -/
def zNum (f : Fields) (s : State) : Nibble := (lowByte f s).extractLsb' 0 4

/-- `l0`: the left adder input before the multiply gate. DIVA is A shifted left one place with B's
top bit entering (40_datapath_fields.md R92). -/
def leftSelected (f : Fields) (s : State) : Byte :=
  match f.addl with
  | .zero => 0
  | .a => s.a
  | .diva => s.a.extractLsb' 0 7 ++ s.b.extractLsb' 7 1
  | .n => lowByte f s

/-- `l`: the left adder input; MUL forces it to 0 when C's bit 0 is 0 (40_datapath_fields.md R93). -/
def left (f : Fields) (s : State) : Byte :=
  if f.mul && !s.c.getLsbD 0 then 0 else leftSelected f s

/-- `r`: the register ADDR selects, before the inverter (40_datapath_fields.md R94). -/
def rightSelected (f : Fields) (s : State) : Byte :=
  match f.addr with
  | .zero => 0
  | .b => s.b
  | .c => s.c
  | .d => s.d

/-- `rn`: the right adder input, inverted under NOT (40_datapath_fields.md R94). -/
def right (f : Fields) (s : State) : Byte :=
  if f.inv then ~~~rightSelected f s else rightSelected f s

/-- `cin` (40_datapath_fields.md R95). -/
def carryIn (f : Fields) (s : State) : Bool := (f.cfin && s.cf) || f.one

/-- Where a general-register number lies in data memory (10_state.md R12). -/
def registerAddress (s : State) (n : Nibble) : Nat := 16 * s.bank.toNat + n.toNat

/-- The one address of the modes R(N), R(ADDR) and R(REGADDR) (20_memory.md R44 to R46), or the
general register `n` in the default mode (R43). The ADDR value is the one before the inverter. -/
def dataAddress (f : Fields) (s : State) (n : Nibble) : Nat :=
  match f.rmode with
  | .xz => registerAddress s n
  | .n => (lowByte f s).toNat
  | .addr => (rightSelected f s).toNat
  | .regAddr => (s.reg ++ rightSelected f s).toNat

/-- `raddr` (20_memory.md R42). -/
def readAddress (f : Fields) (s : State) : Nat := dataAddress f s (xNum f s)

/-- `waddr` (20_memory.md R42). -/
def writeAddress (f : Fields) (s : State) : Nat := dataAddress f s (zNum f s)

/-- The instruction's data addresses are implemented (20_memory.md R47): the whole bank in the default
mode, the scratchpad for R(N) and R(ADDR), data memory for R(REGADDR). -/
def addressImplemented (f : Fields) (s : State) : Bool :=
  match f.rmode with
  | .xz => 16 * s.bank.toNat + 15 < s.cfg.spadBytes
  | .n | .addr => readAddress f s < s.cfg.spadBytes
  | .regAddr => readAddress f s < s.cfg.dmemBytes

end Sys2Proof.Machine

namespace Sys2Proof

/-- What B takes (30_encoding.md R72). -/
def BcSel.bSrc : BcSel → Src
  | .keep | .cAns | .cLsh | .cRsh | .cReg => .keep
  | .bAns | .bAnsCAns | .bAnsCLsh | .bAnsCRsh => .ans
  | .bLsh | .bLshCAns | .bLshCLsh => .lsh
  | .bRsh | .bRshCAns | .bRshCRsh => .rsh
  | .bReg => .reg

/-- What C takes (30_encoding.md R72). -/
def BcSel.cSrc : BcSel → Src
  | .keep | .bAns | .bLsh | .bRsh | .bReg => .keep
  | .cAns | .bAnsCAns | .bLshCAns | .bRshCAns => .ans
  | .cLsh | .bAnsCLsh | .bLshCLsh => .lsh
  | .cRsh | .bAnsCRsh | .bRshCRsh => .rsh
  | .cReg => .reg

end Sys2Proof
end

