-- ==== Sys2Proof/Machine/Flags.lean ====
section
/-!
DEFINITION. The adder, the result bus ANS, the carry out, the quotient bit and the two flags
(40_datapath_fields.md R95 to R99).
-/

namespace Sys2Proof.Machine

/-- What an opcode makes of the datapath (40_datapath_fields.md R96, R97, R98, R107, R110). -/
inductive AluOp where
  /-- ANS is the sum; nothing more. -/
  | plain
  /-- ANS is the sum, and CF takes the carry out (ADD). -/
  | add
  /-- ANS is a bitwise operation, and ZF is written (AND, XOR, OR). -/
  | and | xor | or
  /-- ANS is the sum, and `D=ANS` writes REG (D=REG). -/
  | dReg
  /-- ANS is the sum, and STORE writes REG (MOV). -/
  | mov
  /-- ANS is an input byte (INPUT, INPUTOUTPUT). -/
  | input (v : Byte)
deriving DecidableEq, Repr

/-- AND, XOR, OR. -/
def AluOp.isLogic : AluOp → Bool
  | .and | .xor | .or => true
  | _ => false

/-- INPUT, INPUTOUTPUT. -/
def AluOp.isInput : AluOp → Bool
  | .input _ => true
  | _ => false

/-- `sum9`: the 9-bit sum of the two inputs and the carry-in (40_datapath_fields.md R113). -/
def sum9 (f : Fields) (s : State) : BitVec 9 :=
  (left f s).setWidth 9 + (right f s).setWidth 9 + (bit (carryIn f s)).setWidth 9

/-- `cout`: the carry out of the adder (40_datapath_fields.md R97). -/
def carryOut (f : Fields) (s : State) : Bool := (sum9 f s).getLsbD 8

/-- What the divide step of an instruction computes from (40_datapath_fields.md R99). -/
def divIn (f : Fields) (s : State) : DivIn :=
  { a := s.a, b := s.b, divisor := right f s, cin := carryIn f s }

/-- The default of DivStep: one step of a restoring division (40_datapath_fields.md R99). -/
def divRestoring (x : DivIn) : DivOut :=
  let l : Byte := x.a.extractLsb' 0 7 ++ x.b.extractLsb' 7 1
  let sum : BitVec 9 := l.setWidth 9 + x.divisor.setWidth 9 + (bit x.cin).setWidth 9
  let q := x.a.getLsbD 7 || sum.getLsbD 8
  { ans := if q then sum.setWidth 8 else l, q := q }

/-- The divide step of an instruction under the parameter DivStep (40_datapath_fields.md R99). -/
def divOut (f : Fields) (s : State) : DivOut :=
  (s.cfg.divStep.lookup (divIn f s)).getD (divRestoring (divIn f s))

/-- The bit that enters C under `C=LSH` without `ADDL=DIVA`, under the parameter ShiftIn
(40_datapath_fields.md R105). -/
def shiftInBit (f : Fields) (s : State) : Bool :=
  match s.cfg.shiftIn with
  | .cout => carryOut f s
  | .fixed v => v
  | .unknown => (Config.any8 s.draws .shiftIn).getLsbD 0

/-- The bit that enters C under `C=LSH` (40_datapath_fields.md R105). -/
def quotientBit (f : Fields) (s : State) : Bool :=
  if f.addl = .diva then (divOut f s).q else shiftInBit f s

/-- ANS under the opcodes that add: the sum, or what the divide step computes (40_datapath_fields.md R96,
R99). -/
def sumAns (f : Fields) (s : State) : Byte :=
  if f.addl = .diva then (divOut f s).ans else (sum9 f s).setWidth 8

/-- ANS (40_datapath_fields.md R96). -/
def ans (k : AluOp) (f : Fields) (s : State) : Byte :=
  match k with
  | .and => left f s &&& right f s
  | .xor => left f s ^^^ right f s
  | .or => left f s ||| right f s
  | .input v => v
  | .plain | .add | .dReg | .mov => sumAns f s

/-- CF after the instruction (40_datapath_fields.md R97). -/
def nextCf (k : AluOp) (f : Fields) (s : State) : Bool :=
  match k with
  | .add => carryOut f s
  | _ => s.cf

/-- ZF after the instruction; the CF field propagates it (40_datapath_fields.md R98). -/
def nextZf (k : AluOp) (f : Fields) (s : State) : Bool :=
  if k.isLogic then decide (ans k f s = 0) && (!f.cfin || s.zf) else s.zf

/-- A after the instruction (40_datapath_fields.md R100). -/
def nextA (k : AluOp) (f : Fields) (s : State) : Byte := if f.aans then ans k f s else s.a

/-- B after the instruction (40_datapath_fields.md R101 to R103, R108). -/
def nextB (k : AluOp) (f : Fields) (s : State) : Byte :=
  match f.bc.bSrc with
  | .keep => s.b
  | .ans => ans k f s
  | .lsh => s.b.extractLsb' 0 7 ++ s.c.extractLsb' 7 1
  | .rsh => bit (carryOut f s) ++ (ans k f s).extractLsb' 1 7
  | .reg => s.reg

/-- C after the instruction (40_datapath_fields.md R104 to R106, R109). -/
def nextC (k : AluOp) (f : Fields) (s : State) : Byte :=
  match f.bc.cSrc with
  | .keep => s.c
  | .ans => ans k f s
  | .lsh => s.c.extractLsb' 0 7 ++ bit (quotientBit f s)
  | .rsh => (ans k f s).extractLsb' 0 1 ++ s.c.extractLsb' 1 7
  | .reg => s.reg

/-- D after the instruction (40_datapath_fields.md R107). -/
def nextD (k : AluOp) (f : Fields) (s : State) : Byte :=
  if f.dans then (if k = .dReg then s.reg else ans k f s) else s.d

/-- The field combinations that have no meaning under an opcode (40_datapath_fields.md R93, R96;
20_memory.md R45, R46). -/
def fieldRefusal (k : AluOp) (f : Fields) : Option Refusal :=
  if f.mul = true ∧ f.addl = .diva then some .mulWithDiva
  else if f.inv = true ∧ (f.rmode = .addr ∨ f.rmode = .regAddr) then some .notWithAddressMode
  else if k.isLogic = true ∧ f.mul = true then some .mulUnderLogic
  else if k.isLogic = true ∧ f.addl = .diva then some .divaUnderLogic
  else if k.isLogic = true ∧ (f.bc.bSrc = .rsh ∨ f.bc.cSrc = .lsh) then some .shiftUnderNonAdding
  else if k.isInput = true ∧ (f.bc.bSrc = .rsh ∨ f.bc.cSrc = .lsh ∨ f.bc.cSrc = .rsh) then
    some .shiftUnderNonAdding
  else none

end Sys2Proof.Machine
end

