-- ==== Sys2Proof/Machine/Ops.lean ====
section
/-!
DEFINITION. The named operations over the state: memory, the datapath step, the return stack, the
control part of a step, the port interface, and interrupts: when one is accepted, its entry, and the
return from it.
-/

namespace Sys2Proof.Machine

/-! ## Memory -/

/-- The known value at an address, if there is one. -/
def Memory.lookup {w : Nat} : Memory w → Nat → Option (BitVec w)
  | [], _ => none
  | (k, v) :: m, a => if a = k then some v else Memory.lookup m a

/-- The memory with a value stored at an address; the rising order is kept. -/
def Memory.store {w : Nat} : Memory w → Nat → BitVec w → Memory w
  | [], a, v => [(a, v)]
  | (k, u) :: m, a, v =>
    if a < k then (a, v) :: (k, u) :: m
    else if a = k then (a, v) :: m
    else (k, u) :: Memory.store m a v

/-- Every listed address is above `lo` (at least `lo`), and they rise. -/
def Memory.risesFrom {w : Nat} : Nat → Memory w → Bool
  | _, [] => true
  | lo, (k, _) :: m => decide (lo ≤ k) && Memory.risesFrom (k + 1) m

/-- The canonical form: addresses strictly rising. (An unlisted address has no value, so no entry can
equal what an unlisted address reads as.) -/
def Memory.wf {w : Nat} (m : Memory w) : Bool := Memory.risesFrom 0 m

/-- Every listed address is below `n`. -/
def Memory.below {w : Nat} (n : Nat) (m : Memory w) : Bool := m.all fun p => decide (p.1 < n)

/-- `MemRead(addr, 1)`: a byte that nothing has written is a free value, drawn anew at each read
(00_scope.md R8; 10_state.md R34; log 9). -/
def readByte (s : State) (a : Nat) : Byte :=
  (s.dmem.lookup a).getD (Config.any8 s.draws .memory)

/-- `PMemRead(a)`: the word of program memory at an address that is implemented and loaded
(00_scope.md R8; 10_state.md R29; log 10). -/
def programWord (s : State) (a : Nat) : Option Word :=
  if a < s.cfg.pmemWords then s.pmem.lookup a else none

/-! ## The datapath step -/

/-- What STORE writes: A, or REG under MOV (40_datapath_fields.md R110). -/
def storeData (k : AluOp) (s : State) : Byte := if k = .mov then s.reg else s.a

/-- Data memory after the instruction (40_datapath_fields.md R110). -/
def nextDmem (k : AluOp) (f : Fields) (s : State) : Memory 8 :=
  if f.store then s.dmem.store (writeAddress f s) (storeData k s) else s.dmem

/-- REG after the instruction: the byte at the read address, unknown when the instruction stores to the
very address it reads (40_datapath_fields.md R111, R112 case (a)). -/
def nextReg (f : Fields) (s : State) : Byte :=
  if f.store = true ∧ writeAddress f s = readAddress f s then Config.any8 s.draws .reg
  else readByte s (readAddress f s)

/-- The whole datapath step (40_datapath_fields.md R113): every read from the old state, every write
at once (R91). -/
def datapath (k : AluOp) (f : Fields) (s : State) : State :=
  { s with
    a := nextA k f s
    b := nextB k f s
    c := nextC k f s
    d := nextD k f s
    cf := nextCf k f s
    zf := nextZf k f s
    dmem := nextDmem k f s
    reg := nextReg f s }

/-- The datapath step of a word whose fields and addresses have a meaning, and `rest` with the state
after it; otherwise the stop the spec names. -/
def withDatapath (k : AluOp) (f : Fields) (s : State) (rest : State → Result) : Result :=
  match fieldRefusal k f with
  | some r => .refused r
  | none => if addressImplemented f s then rest (datapath k f s) else .fault .dataAddress

/-- The datapath step of an address word: `B=LSH` or nothing, and REG unknown (40_datapath_fields.md
R113, R112 case (b)). -/
def addressDatapath (lsh : Bool) (s : State) : State :=
  { s with
    b := if lsh then s.b.extractLsb' 0 7 ++ s.c.extractLsb' 7 1 else s.b
    reg := Config.any8 s.draws .reg }

/-- `s` with REG unknown (40_datapath_fields.md R112). -/
def regUnknown (s : State) : State := { s with reg := Config.any8 s.draws .reg }

/-! ## The return stack -/

/-- `push(v)`: the stack after it, or nothing on a full stack (10_state.md R24). -/
def pushed (s : State) (v : Addr) : Option (List Addr) :=
  if s.stk.length < s.cfg.stackDepth then some (v :: s.stk) else none

/-- CIP after a pop that leaves `n` entries (43_compressed.md R195). -/
def cipAfterPop (cip : Option Nat) (n : Nat) : Option Nat :=
  match cip with
  | some d => if n < d then none else some d
  | none => none

/-- Call: push the return address and go on with the state after it (10_state.md R24). -/
def pushThen (s : State) (v : Addr) (rest : List Addr → Result) : Result :=
  match pushed s v with
  | some stk => rest stk
  | none => .refused .stackOverflow

/-- Return: pop and go on with the address, the stack and CIP after it (10_state.md R24). -/
def popThen (s : State) (rest : Addr → List Addr → Option Nat → Result) : Result :=
  match s.stk with
  | v :: stk => rest v stk (cipAfterPop s.cip stk.length)
  | [] => .refused .stackUnderflow

/-! ## The control part of a step (42_control_transfer.md R151) -/

/-- What an instruction's opcode decides. -/
inductive Transfer where
  /-- No transfer. -/
  | none
  /-- After one slot instruction. -/
  | delayed1 (target : Addr)
  /-- After two slot instructions (LOOP). -/
  | delayed2 (target : Addr)
  /-- At once, the slot cancelled (J-type). -/
  | now (target : Addr)
  /-- The same instruction again (WAIT). -/
  | again
deriving DecidableEq, Repr

/-- pc after the instruction (42_control_transfer.md R151, R176). -/
def nextPc (s : State) (t : Transfer) : Addr :=
  match t with
  | .again => s.pc
  | .now target => target
  | .delayed1 _ | .delayed2 _ => s.pc + 1
  | .none =>
    match s.pend with
    | some (.one target) => target
    | some (.two _) => s.pc + 1
    | none => if s.ind then s.a ++ s.b else s.pc + 1

/-- The pending transfer after the instruction (42_control_transfer.md R151). -/
def nextPend (s : State) (t : Transfer) : Option Delayed :=
  match t with
  | .delayed1 target => some (.one target)
  | .delayed2 target => some (.two target)
  | .again | .now _ => none
  | .none =>
    match s.pend with
    | some (.two target) => some (.one target)
    | some (.one _) | none => none

/-- IND after the instruction: a transfer to address 1 has just completed (42_control_transfer.md
R176). -/
def nextInd (s : State) (t : Transfer) : Bool :=
  match t with
  | .now target => decide (target = 1)
  | .none =>
    match s.pend with
    | some (.one target) => decide (target = 1)
    | some (.two _) | none => false
  | .delayed1 _ | .delayed2 _ | .again => false

/-- The instruction fell through to pc + 1 with no transfer about (10_state.md R27). -/
def nextSeq (s : State) (t : Transfer) : Bool :=
  decide (t = .none) && decide (s.pend = none) && !s.ind

/-- REG after the control part: unknown after a J-type, and after the jump from address 1
(40_datapath_fields.md R112 case (c); 42_control_transfer.md R176). -/
def controlReg (s u : State) (t : Transfer) : Byte :=
  match t with
  | .now _ => Config.any8 s.draws .reg
  | .none => if s.ind = true ∧ s.pend = none then Config.any8 s.draws .reg else u.reg
  | .delayed1 _ | .delayed2 _ | .again => u.reg

/-- The end of an executed instruction: `s` is the state before it, `u` the state its effects have
made, `t` its transfer. The instruction of grace is used up (10_state.md R26). -/
def finish (s : State) (t : Transfer) (u : State) : State :=
  { u with
    pc := nextPc s t
    pend := nextPend s t
    ind := nextInd s t
    seq := nextSeq s t
    reg := controlReg s u t
    gr := false
    draws := s.draws + 1 }

/-- A transfer may not stand in a delay slot (42_control_transfer.md R153). -/
def outsideSlot (s : State) (rest : Result) : Result :=
  match s.pend with
  | none => rest
  | some _ => .refused .transferInSlot

/-! ## The port interface (44_io_opcodes.md) -/

/-- `xPORTID_P[7:0]`: the B register as it is (44_io_opcodes.md R206). -/
def xPortId (s : State) : Byte := s.b

/-- `xOUTPORT_P[7:0]` outside OUTPUTK: the D register as it is (44_io_opcodes.md R206). -/
def xOutPort (s : State) : Byte := s.d

/-- `PortIn`: the next answer of the environment, a free value past the answers the state holds
(44_io_opcodes.md R205; log 13). -/
def portAnswer (s : State) : Byte := s.portIn.headD (Config.any8 s.draws .port)

/-- `emit(e)` (44_io_opcodes.md R205). -/
def emit (e : IoEvent) (s : State) : State := { s with trace := s.trace ++ [e] }

/-- A byte of the readable interrupt return address, a free value while it is unknown (44_io_opcodes.md
R212). -/
def iravByte (s : State) (lo : Nat) : Byte :=
  match s.irav with
  | some v => v.extractLsb' lo 8
  | none => Config.any8 s.draws .irav

/-- `in_byte(Z)` (44_io_opcodes.md R212): the byte, or the reason there is none. -/
def inByte (s : State) (z : Nibble) : Except Refusal Byte :=
  match z.toNat with
  | 0 => .ok (portAnswer s)
  | 1 =>
    match s.stk with
    | v :: _ => .ok (v.extractLsb' 0 8)
    | [] => .error .stackUnderflow
  | 2 =>
    match s.stk with
    | v :: _ => .ok (v.extractLsb' 8 8)
    | [] => .error .stackUnderflow
  | 3 => .ok (iravByte s 0)
  | 4 => .ok (iravByte s 8)
  | _ => .error .inputSelector

/-- The byte an input event carries: the one taken from the port, which only selector 0 takes
(44_io_opcodes.md R205). -/
def takenByte (z : Nibble) (v : Byte) : Option Byte := if z = 0 then some v else none

/-- The environment's answers after an input: selector 0 consumes one (44_io_opcodes.md R215). -/
def portAfter (s : State) (z : Nibble) : List Byte := if z = 0 then s.portIn.tail else s.portIn

/-- The byte OUTPUTK puts on the port, or nothing where it is refused (44_io_opcodes.md R210). -/
def outputkData (f : Fields) (s : State) : Option Byte :=
  if (lowByte f s).extractLsb' 4 4 = 0 then some (lowByte f s)
  else
    match s.cfg.outputkImm with
    | .refuse => none
    | .n8 => some (lowByte f s)
    | .z4 => some ((zNum f s).setWidth 8)

/-! ## Interrupts (60_exceptions.md) -/

/-- A transfer is in flight (60_exceptions.md R235). -/
def inTransfer (s : State) : Bool := s.pend.isSome || s.ind

/-- A request is present and allowed (60_exceptions.md R235). -/
def requestAllowed (s : State) : Bool := (s.irq0 || s.irq1) && s.ie && !s.ins && !s.gr

/-- What happens at the boundary before a step. -/
inductive Boundary where
  /-- Interrupt entry takes the place of the step. -/
  | enter
  /-- The run is refused. -/
  | refuse
  /-- The instruction at pc executes. -/
  | run
deriving DecidableEq, Repr

/-- Acceptance (60_exceptions.md R235). -/
def boundary (s : State) : Boundary :=
  if requestAllowed s then
    if inTransfer s then
      match s.cfg.irqInSlot with
      | .refuse => .refuse
      | .defer => .run
    else .enter
  else .run

/-- TAKING AN INTERRUPT (60_exceptions.md R236, R239): the pc is saved in IRA, its readable copy in
IRAV where the last step fell through, and control goes to address 2 or 3. -/
def interruptEntry (s : State) : State :=
  { s with
    ira := s.pc
    irav := if s.seq then some (s.pc + BitVec.ofNat 16 s.cfg.iraReadOffset) else none
    ins := true
    pc := if s.irq0 then 2 else 3
    seq := false
    reg := Config.any8 s.draws .reg
    draws := s.draws + 1 }

/-- RETURNING FROM AN INTERRUPT (60_exceptions.md R240, with irq0 = 0): `s` is the state before RETURNI,
`u` the state its fields have made. -/
def interruptReturn (s u : State) : State :=
  { u with
    pc := s.ira
    pend := none
    ind := false
    ins := false
    gr := true
    seq := false
    reg := Config.any8 s.draws .reg
    draws := s.draws + 1 }

/-- The levels of the interrupt lines move on by one step (10_state.md R32; log 12). -/
def nextLines (s : State) : State :=
  match s.irqNext with
  | [] => s
  | (l0, l1) :: rest => { s with irq0 := l0, irq1 := l1, irqNext := rest }

/-- The word at the address after pc, modulo 2^16, is the bare NOP (60_exceptions.md R240). The spec does not
say what `PMemRead` gives at or above PMEM_WORDS; here there is no word there, so a RETURNI in the last
implemented word has no NOP after it, as where the word was never loaded (DESIGN CHOICE, log 26). -/
def nopFollows (s : State) : Bool := decide (programWord s (s.pc + 1).toNat = some 0)

end Sys2Proof.Machine
end

