-- ==== Sys2Proof/Machine/Alu.lean ====
section
/-!
DEFINITION. NOP, I=X, D=REG, ADD, AND, XOR, OR, MOV, REGBANK and the two undefined opcodes
(41_opcodes_alu_misc.md).
-/

namespace Sys2Proof.Machine

/-- A word whose opcode makes `k` of the datapath, adds the effect `extra`, and transfers nothing. -/
def plainWord (k : AluOp) (f : Fields) (s : State) (extra : State → State) : Result :=
  withDatapath k f s fun u => .next (finish s .none (extra u))

/-- NOP (R130). -/
def execNop (f : Fields) (s : State) : Result := plainWord .plain f s id

/-- I=X (R131). -/
def execIX (f : Fields) (s : State) : Result :=
  plainWord .plain f s fun u => { u with i := xNum f s }

/-- D=REG (R132). -/
def execDReg (f : Fields) (s : State) : Result := plainWord .dReg f s id

/-- Opcode 15 (R133). -/
def execUndefined15 (_f : Fields) (_s : State) : Result := .refused .undefinedOpcode

/-- Opcode 31 (R133). -/
def execUndefined31 (_f : Fields) (_s : State) : Result := .refused .undefinedOpcode

/-- ADD (R134). -/
def execAdd (f : Fields) (s : State) : Result := plainWord .add f s id

/-- AND (R135). -/
def execAnd (f : Fields) (s : State) : Result := plainWord .and f s id

/-- XOR (R136). -/
def execXor (f : Fields) (s : State) : Result := plainWord .xor f s id

/-- OR (R137). -/
def execOr (f : Fields) (s : State) : Result := plainWord .or f s id

/-- MOV (R138). -/
def execMov (f : Fields) (s : State) : Result := plainWord .mov f s id

/-- REGBANK (R140): REG is unknown afterwards (40_datapath_fields.md R112 case (d)). -/
def execRegbank (f : Fields) (s : State) : Result :=
  if f.store then .refused .storeWithRegbank
  else if s.cfg.numBanks ≤ (xNum f s).toNat then .refused .bankNotImplemented
  else plainWord .plain f s fun u => regUnknown { u with bank := xNum f s }

end Sys2Proof.Machine
end

