-- ==== Sys2Proof/Machine/Branch.lean ====
section
/-!
DEFINITION. B, JB and the conditional branches (42_control_transfer.md R154 to R161). A target of 1 is
the indirect jump: `nextInd` marks it when the transfer completes (R176).
-/

namespace Sys2Proof.Machine

/-- A branch word whose opcode decides `t`: `B=LSH` at most, REG unknown (40_datapath_fields.md R113). -/
def branchWord (lsh : Bool) (s : State) (t : Transfer) : Result :=
  outsideSlot s (.next (finish s t (addressDatapath lsh s)))

/-- The transfer of a conditional branch (R156 to R161). -/
def takenIf (taken : Bool) (target : Addr) : Transfer :=
  if taken then .delayed1 target else .none

/-- B (R154). -/
def execB (lsh : Bool) (target : Addr) (s : State) : Result :=
  branchWord lsh s (.delayed1 target)

/-- JB (R155). -/
def execJb (lsh : Bool) (target : Addr) (s : State) : Result :=
  branchWord lsh s (.now target)

/-- BCF0 (R156). -/
def execBcf0 (lsh : Bool) (target : Addr) (s : State) : Result :=
  branchWord lsh s (takenIf (!s.cf) target)

/-- BCF1 (R157). -/
def execBcf1 (lsh : Bool) (target : Addr) (s : State) : Result :=
  branchWord lsh s (takenIf s.cf target)

/-- BZF0 (R158). -/
def execBzf0 (lsh : Bool) (target : Addr) (s : State) : Result :=
  branchWord lsh s (takenIf (!s.zf) target)

/-- BZF1 (R159). -/
def execBzf1 (lsh : Bool) (target : Addr) (s : State) : Result :=
  branchWord lsh s (takenIf s.zf target)

/-- BC0 (R160). -/
def execBc0 (lsh : Bool) (target : Addr) (s : State) : Result :=
  branchWord lsh s (takenIf (!s.c.getLsbD 0) target)

/-- BC1 (R161). -/
def execBc1 (lsh : Bool) (target : Addr) (s : State) : Result :=
  branchWord lsh s (takenIf (s.c.getLsbD 0) target)

end Sys2Proof.Machine
end

