-- ==== Sys2Proof/Machine/Call.lean ====
section
/-!
DEFINITION. CALL, JCALL, CALL0, CALL1, RETURN, JRETURN, RETURN0, RETURN1 (42_control_transfer.md R162
to R170).
-/

namespace Sys2Proof.Machine

/-- The return address of CALL, CALL0 and CALL1: the instruction after the slot (R170). -/
def callReturn (s : State) : Addr := s.pc + 2

/-- The return address of JCALL (R170, the parameter JCALL_RET). -/
def jcallReturn (s : State) : Addr := s.pc + BitVec.ofNat 16 s.cfg.jcallRet

/-- A call that is made: push, and transfer. A call to address 1 has no meaning (R162, R176). -/
def callTaken (lsh : Bool) (s : State) (ra target : Addr) (t : Transfer) : Result :=
  if target = 1 then .refused .callToAddressOne
  else pushThen s ra fun stk => .next (finish s t { addressDatapath lsh s with stk := stk })

/-- A call that is not made: nothing is pushed (R164). -/
def callNotTaken (lsh : Bool) (s : State) : Result :=
  .next (finish s .none (addressDatapath lsh s))

/-- CALL (R162). -/
def execCall (lsh : Bool) (target : Addr) (s : State) : Result :=
  outsideSlot s (callTaken lsh s (callReturn s) target (.delayed1 target))

/-- JCALL (R163). -/
def execJcall (lsh : Bool) (target : Addr) (s : State) : Result :=
  outsideSlot s (callTaken lsh s (jcallReturn s) target (.now target))

/-- CALL0 (R164). -/
def execCall0 (lsh : Bool) (target : Addr) (s : State) : Result :=
  outsideSlot s
    (if s.zf then callNotTaken lsh s
     else callTaken lsh s (callReturn s) target (.delayed1 target))

/-- CALL1 (R165). -/
def execCall1 (lsh : Bool) (target : Addr) (s : State) : Result :=
  outsideSlot s
    (if s.zf then callTaken lsh s (callReturn s) target (.delayed1 target)
     else callNotTaken lsh s)

/-- A return that is made: pop, and transfer to what was popped. A return to address 1 has no meaning
(R176). `u` is the state the word's fields have made. -/
def returnTaken (s u : State) (mk : Addr → Transfer) : Result :=
  popThen s fun ra stk cip =>
    if ra = 1 then .refused .reachedAddressOne
    else .next (finish s (mk ra) { u with stk := stk, cip := cip })

/-- RETURN (R166). -/
def execRet (f : Fields) (s : State) : Result :=
  outsideSlot s (withDatapath .plain f s fun u => returnTaken s u .delayed1)

/-- JRETURN (R167). -/
def execJret (f : Fields) (s : State) : Result :=
  outsideSlot s (withDatapath .plain f s fun u => returnTaken s u .now)

/-- RETURN0 (R168). Its slot is the spec's inference from R150: the sources do not say (DEDUCED, log 29). -/
def execRet0 (f : Fields) (s : State) : Result :=
  outsideSlot s (withDatapath .plain f s fun u =>
    if s.zf then .next (finish s .none u) else returnTaken s u .delayed1)

/-- RETURN1 (R169). Its slot as RETURN0's (DEDUCED, log 29). -/
def execRet1 (f : Fields) (s : State) : Result :=
  outsideSlot s (withDatapath .plain f s fun u =>
    if s.zf then returnTaken s u .delayed1 else .next (finish s .none u))

end Sys2Proof.Machine
end

