-- ==== Sys2Proof/Machine/Compressed.lean ====
section
/-!
DEFINITION. The two halves of a compressed word, and POPSP (43_compressed.md).
-/

namespace Sys2Proof.Machine

/-- Where compressed opcode `k` enters: 8 * k + 4 (R194). -/
def compressedEntry (cop : BitVec 7) : Addr := cop.setWidth 16 * 8 + 4

/-- The start of a compressed instruction (R192, R193): `ra` is the return address, `hl` what the half
bit becomes. -/
def compressedStart (cop : BitVec 7) (copd : Byte) (ra : Addr) (hl : Bool) (s : State) : Result :=
  if s.pend ≠ none ∨ s.ind = true then .refused .compressedInSlot
  else if s.ins then .refused .compressedInHandler
  else if s.cip ≠ none then .refused .compressedNested
  else pushThen s ra fun stk =>
    .next (finish s (.now (compressedEntry cop))
      { s with co := copd, stk := stk, cip := some stk.length, hl := hl })

/-- The upper half: it returns to its own word, for the lower half (R192). -/
def execCompressedUpper (cop : BitVec 7) (copd : Byte) (s : State) : Result :=
  compressedStart cop copd s.pc true s

/-- The lower half: it returns past its word (R193). -/
def execCompressedLower (cop : BitVec 7) (copd : Byte) (s : State) : Result :=
  compressedStart cop copd (s.pc + 1) false s

/-- POPSP (R197): the return address is dropped, HL cleared, no compressed instruction in progress. -/
def execPopsp (f : Fields) (s : State) : Result :=
  withDatapath .plain f s fun u =>
    popThen s fun _ stk _ =>
      .next (finish s .none { u with stk := stk, hl := false, cip := none })

end Sys2Proof.Machine
end

