-- ==== Sys2Proof/Machine/Interrupt.lean ====
section
/-!
DEFINITION. ENABLE, DISABLE and RETURNI (60_exceptions.md R232, R233, R240 to R242).
-/

namespace Sys2Proof.Machine

/-- ENABLE (R232). -/
def execEnable (f : Fields) (s : State) : Result :=
  if s.ins then .refused .enableInHandler
  else withDatapath .plain f s fun u => .next (finish s .none { u with ie := true })

/-- DISABLE (R233). -/
def execDisable (f : Fields) (s : State) : Result :=
  if s.ins then .refused .disableInHandler
  else withDatapath .plain f s fun u => .next (finish s .none { u with ie := false })

/-- RETURNI (R240). With line 0 at 1 it does not return: the NOP after it executes, and then the
handler of interrupt 0 is entered again (R241). -/
def execReturni (f : Fields) (s : State) : Result :=
  if s.ins = false then .refused .returniOutsideHandler
  else outsideSlot s
    (if nopFollows s then
      withDatapath .plain f s fun u =>
        if s.irq0 then .next (finish s (.delayed1 2) (regUnknown u))
        else .next (interruptReturn s u)
     else .refused .noNopAfterReturni)

end Sys2Proof.Machine
end

