-- ==== Sys2Proof/Machine/Io.lean ====
section
/-!
DEFINITION. IOSTROBE, OUTPUTK, INPUTOUTPUT, INPUT and OUTPUT (44_io_opcodes.md R207 to R214).
-/

namespace Sys2Proof.Machine

/-- IOSTROBE (R207). -/
def execIostrobe (f : Fields) (s : State) : Result :=
  withDatapath .plain f s fun u =>
    .next (finish s .none (emit (.ioStrobe (xPortId s) (xOutPort s)) u))

/-- OUTPUT (R209). -/
def execOutput (f : Fields) (s : State) : Result :=
  withDatapath .plain f s fun u =>
    .next (finish s .none (emit (.writeStrobe (xPortId s) (xOutPort s)) u))

/-- OUTPUTK (R210). -/
def execOutputk (f : Fields) (s : State) : Result :=
  match outputkData f s with
  | none => .refused .outputkImmediate
  | some v =>
    withDatapath .plain f s fun u =>
      .next (finish s .none (emit (.writeStrobeK (xPortId s) v) u))

/-- The part INPUT and INPUTOUTPUT share: ANS is the selected byte, the environment's answer is
consumed where it was the one selected, and one event is emitted (R205, R211, R212, R214). -/
def inputWord (f : Fields) (s : State) (event : Option Byte → IoEvent) : Result :=
  match inByte s (zNum f s) with
  | .error r => .refused r
  | .ok v =>
    withDatapath (.input v) f s fun u =>
      .next (finish s .none
        (emit (event (takenByte (zNum f s) v)) { u with portIn := portAfter s (zNum f s) }))

/-- INPUT (R211). -/
def execInput (f : Fields) (s : State) : Result :=
  inputWord f s (.readStrobe (xPortId s) (xOutPort s))

/-- INPUTOUTPUT (R214). -/
def execInputoutput (f : Fields) (s : State) : Result :=
  inputWord f s (.readWriteStrobe (xPortId s) (xOutPort s))

end Sys2Proof.Machine
end

