-- ==== Sys2Proof/Machine/Loop.lean ====
section
/-!
DEFINITION. LOOP and WAIT (42_control_transfer.md R171, R173).
-/

namespace Sys2Proof.Machine

/-- LOOP's target: the address of the LOOP plus 2 minus REL (R171). -/
def loopTarget (f : Fields) (s : State) : Addr := s.pc + 2 - f.low.setWidth 16

/-- LOOP (R171). COPR may not be used with it, and a target of 1 has no meaning. -/
def execLoop (f : Fields) (s : State) : Result :=
  outsideSlot s
    (if f.copr then .refused .coprInBranch
     else withDatapath .plain f s fun u =>
      if s.i = 0 then .next (finish s .none u)
      else if loopTarget f s = 1 then .refused .reachedAddressOne
      else .next (finish s (.delayed2 (loopTarget f s)) { u with i := s.i - 1 }))

/-- WAIT (R173): every execution performs all fields, the last with I = 0 too. -/
def execWait (f : Fields) (s : State) : Result :=
  outsideSlot s (withDatapath .plain f s fun u =>
    if s.i = 0 then .next (finish s .none u)
    else .next (finish s .again { u with i := s.i - 1 }))

end Sys2Proof.Machine
end

