-- ==== Sys2Proof/Machine/Dispatch.lean ====
section
/-!
DEFINITION. Every instruction to its meaning, one arm for each constructor of `Instr`.
-/

namespace Sys2Proof.Machine

def exec (i : Instr) (s : State) : Host.Outcome State Fault Refusal :=
  match i with
  | .nop f => Sys2Proof.Machine.execNop f s
  | .iX f => Sys2Proof.Machine.execIX f s
  | .b lsh target => Sys2Proof.Machine.execB lsh target s
  | .jb lsh target => Sys2Proof.Machine.execJb lsh target s
  | .bcf0 lsh target => Sys2Proof.Machine.execBcf0 lsh target s
  | .bcf1 lsh target => Sys2Proof.Machine.execBcf1 lsh target s
  | .bzf0 lsh target => Sys2Proof.Machine.execBzf0 lsh target s
  | .bzf1 lsh target => Sys2Proof.Machine.execBzf1 lsh target s
  | .bc0 lsh target => Sys2Proof.Machine.execBc0 lsh target s
  | .bc1 lsh target => Sys2Proof.Machine.execBc1 lsh target s
  | .call lsh target => Sys2Proof.Machine.execCall lsh target s
  | .jcall lsh target => Sys2Proof.Machine.execJcall lsh target s
  | .call0 lsh target => Sys2Proof.Machine.execCall0 lsh target s
  | .call1 lsh target => Sys2Proof.Machine.execCall1 lsh target s
  | .ret f => Sys2Proof.Machine.execRet f s
  | .jret f => Sys2Proof.Machine.execJret f s
  | .ret0 f => Sys2Proof.Machine.execRet0 f s
  | .ret1 f => Sys2Proof.Machine.execRet1 f s
  | .loop f => Sys2Proof.Machine.execLoop f s
  | .wait f => Sys2Proof.Machine.execWait f s
  | .dReg f => Sys2Proof.Machine.execDReg f s
  | .undefined15 f => Sys2Proof.Machine.execUndefined15 f s
  | .add f => Sys2Proof.Machine.execAdd f s
  | .and f => Sys2Proof.Machine.execAnd f s
  | .xor f => Sys2Proof.Machine.execXor f s
  | .or f => Sys2Proof.Machine.execOr f s
  | .mov f => Sys2Proof.Machine.execMov f s
  | .regbank f => Sys2Proof.Machine.execRegbank f s
  | .enable f => Sys2Proof.Machine.execEnable f s
  | .disable f => Sys2Proof.Machine.execDisable f s
  | .returni f => Sys2Proof.Machine.execReturni f s
  | .popsp f => Sys2Proof.Machine.execPopsp f s
  | .iostrobe f => Sys2Proof.Machine.execIostrobe f s
  | .outputk f => Sys2Proof.Machine.execOutputk f s
  | .inputoutput f => Sys2Proof.Machine.execInputoutput f s
  | .input f => Sys2Proof.Machine.execInput f s
  | .output f => Sys2Proof.Machine.execOutput f s
  | .undefined31 f => Sys2Proof.Machine.execUndefined31 f s
  | .compressedUpper cop copd => Sys2Proof.Machine.execCompressedUpper cop copd s
  | .compressedLower cop copd => Sys2Proof.Machine.execCompressedLower cop copd s

end Sys2Proof.Machine
end

