-- ==== Sys2Proof/WellFormed.lean ====
section
/-!
DEFINITION. Which terms of `Instr` are instructions of the machine. The types already shut out every
value a field cannot take; one restriction between fields remains.
-/

namespace Sys2Proof

/-- A term is an instruction: LOOP has no COPR (30_encoding.md R65, R66). The other branches that
may not have COPR carry no such field. -/
def Instr.wf : Instr → Bool
  | .nop _ | .iX _ => true
  | .b _ _ | .jb _ _ | .bcf0 _ _ | .bcf1 _ _ | .bzf0 _ _ | .bzf1 _ _ | .bc0 _ _ | .bc1 _ _ => true
  | .call _ _ | .jcall _ _ | .call0 _ _ | .call1 _ _ => true
  | .ret _ | .jret _ | .ret0 _ | .ret1 _ => true
  | .loop f => !f.copr
  | .wait _ | .dReg _ | .undefined15 _ => true
  | .add _ | .and _ | .xor _ | .or _ | .mov _ | .regbank _ => true
  | .enable _ | .disable _ | .returni _ | .popsp _ => true
  | .iostrobe _ | .outputk _ | .inputoutput _ | .input _ | .output _ | .undefined31 _ => true
  | .compressedUpper _ _ | .compressedLower _ _ => true

end Sys2Proof
end

