-- ==== Sys2Proof/Decode.lean ====
section
/-!
DEFINITION. From a word of program memory to an instruction, total, with a name for every word that is
none; and back. The layout is that of 30_encoding.md R61, the opcode map that of R70.
-/

namespace Sys2Proof

/-- Why a word is no instruction. -/
inductive DecodeError where
  /-- An opcode 2 to 7 with AANS, DANS, STORE, RMODE or a B/C code other than 0 and 8
  (30_encoding.md R64). -/
  | fieldWithAddress
  /-- An opcode 2 to 7 or LOOP with COPR (30_encoding.md R66). -/
  | coprInBranch
  /-- A compressed word visited for its lower half whose bit 15 is 0 (30_encoding.md R67). -/
  | lowHalfNotCompressed
deriving DecidableEq, Repr

/-- The number of the variant bit (30_encoding.md R69). -/
def VariantBit.pos : VariantBit → Nat
  | .bit16 => 16
  | .bit17 => 17
  | .bit18 => 18
  | .bit19 => 19
  | .bit20 => 20
  | .bit21 => 21
  | .bit22 => 22
  | .bit24 => 24

/-- The variant bit spec/opcode_table.json is written with: the default of 30_encoding.md R69 (the spec's
decision D6, log 2). -/
def tableVariantBit : VariantBit := .bit16

/-- RMODE (30_encoding.md R75; DESIGN CHOICE, log 1). -/
def RMode.ofBits (x : BitVec 2) : RMode :=
  match x.toNat with
  | 0 => .xz
  | 1 => .n
  | 2 => .addr
  | _ => .regAddr

/-- ADDRSEL (30_encoding.md R76; DESIGN CHOICE, log 1). -/
def AddrSel.ofBits (x : BitVec 2) : AddrSel :=
  match x.toNat with
  | 0 => .zero
  | 1 => .b
  | 2 => .c
  | _ => .d

/-- ADDLSEL (30_encoding.md R77; DESIGN CHOICE, log 1). -/
def AddlSel.ofBits (x : BitVec 2) : AddlSel :=
  match x.toNat with
  | 0 => .zero
  | 1 => .a
  | 2 => .diva
  | _ => .n

/-- BCSEL, bit 23 most significant (30_encoding.md R72; DESIGN CHOICE, log 1). -/
def BcSel.ofBits (x : BitVec 4) : BcSel :=
  match x.toNat with
  | 0 => .keep
  | 1 => .cAns
  | 2 => .cLsh
  | 3 => .cRsh
  | 4 => .bAns
  | 5 => .bAnsCAns
  | 6 => .bAnsCLsh
  | 7 => .bAnsCRsh
  | 8 => .bLsh
  | 9 => .bLshCAns
  | 10 => .bLshCLsh
  | 11 => .bReg
  | 12 => .bRsh
  | 13 => .bRshCAns
  | 14 => .cReg
  | _ => .bRshCRsh

/-- The fields of a plain or LOOP word (30_encoding.md R61). -/
def decodeFields (w : Word) : Fields :=
  { copr := w.getLsbD 30
    aans := w.getLsbD 24
    bc := .ofBits (w.extractLsb' 20 4)
    dans := w.getLsbD 19
    store := w.getLsbD 18
    rmode := .ofBits (w.extractLsb' 16 2)
    mul := w.getLsbD 15
    inv := w.getLsbD 14
    addr := .ofBits (w.extractLsb' 12 2)
    addl := .ofBits (w.extractLsb' 10 2)
    cfin := w.getLsbD 9
    one := w.getLsbD 8
    low := w.extractLsb' 0 8 }

/-- A word of the address form: COPR must be 0, and so must every bit of 24..16 but the one of
`B=LSH` (bit 23) and the variant bit (30_encoding.md R64, R66). `mk0` and `mk1` are the two
mnemonics of the opcode, for V = 0 and V = 1. -/
def decodeAddress (vb : VariantBit) (w : Word) (mk0 mk1 : Bool → Addr → Instr) : Except DecodeError Instr :=
  if w.getLsbD 30 then .error .coprInBranch
  else if w.extractLsb' 16 9 &&& ~~~(0x080#9 ||| (1#9 <<< (vb.pos - 16))) ≠ 0 then
    .error .fieldWithAddress
  else if w.getLsbD vb.pos then .ok (mk1 (w.getLsbD 23) (w.extractLsb' 0 16))
  else .ok (mk0 (w.getLsbD 23) (w.extractLsb' 0 16))

/-- A normal word (bit 31 = 0), by its opcode (30_encoding.md R70). -/
def decodeNormal (vb : VariantBit) (w : Word) : Except DecodeError Instr :=
  match (w.extractLsb' 25 5).toNat with
  | 0 => .ok (.nop (decodeFields w))
  | 1 => .ok (.iX (decodeFields w))
  | 2 => decodeAddress vb w .b .jb
  | 3 => decodeAddress vb w .bcf0 .bcf1
  | 4 => decodeAddress vb w .bzf0 .bzf1
  | 5 => decodeAddress vb w .bc0 .bc1
  | 6 => decodeAddress vb w .call .jcall
  | 7 => decodeAddress vb w .call0 .call1
  | 8 => .ok (.ret (decodeFields w))
  | 9 => .ok (.jret (decodeFields w))
  | 10 => .ok (.ret0 (decodeFields w))
  | 11 => .ok (.ret1 (decodeFields w))
  | 12 => if w.getLsbD 30 then .error .coprInBranch else .ok (.loop (decodeFields w))
  | 13 => .ok (.wait (decodeFields w))
  | 14 => .ok (.dReg (decodeFields w))
  | 15 => .ok (.undefined15 (decodeFields w))
  | 16 => .ok (.add (decodeFields w))
  | 17 => .ok (.and (decodeFields w))
  | 18 => .ok (.xor (decodeFields w))
  | 19 => .ok (.or (decodeFields w))
  | 20 => .ok (.mov (decodeFields w))
  | 21 => .ok (.regbank (decodeFields w))
  | 22 => .ok (.enable (decodeFields w))
  | 23 => .ok (.disable (decodeFields w))
  | 24 => .ok (.returni (decodeFields w))
  | 25 => .ok (.popsp (decodeFields w))
  | 26 => .ok (.iostrobe (decodeFields w))
  | 27 => .ok (.outputk (decodeFields w))
  | 28 => .ok (.inputoutput (decodeFields w))
  | 29 => .ok (.input (decodeFields w))
  | 30 => .ok (.output (decodeFields w))
  | _ => .ok (.undefined31 (decodeFields w))

/-- The instruction to execute at the word `w` when VARIANT_BIT is `vb` and the half bit HL is `hl`: bit 31 tells normal from
compressed (30_encoding.md R60), HL which half of a compressed word is next (43_compressed.md R191). -/
def decode (vb : VariantBit) (hl : Bool) (w : Word) : Except DecodeError Instr :=
  if w.getLsbD 31 then
    if hl then
      if w.getLsbD 15 then .ok (.compressedLower (w.extractLsb' 8 7) (w.extractLsb' 0 8))
      else .error .lowHalfNotCompressed
    else .ok (.compressedUpper (w.extractLsb' 24 7) (w.extractLsb' 16 8))
  else decodeNormal vb w

/-- The half the opcode table reads a compressed word as, when nothing else says which is meant: a
word with bits 31 and 15 both 1 is its most specific row, COMPRESSED.LOWER (log 18). -/
def tableHalf (w : Word) : Bool := w.getLsbD 31 && w.getLsbD 15

/-- A table word of `nbits` bits as a word of program memory: the bits above are 0. -/
def tableWord (nbits w : Nat) : Word := BitVec.ofNat 32 (w % 2 ^ nbits)

/-- The instruction the decoder reads from an instruction whose bits are `w`. -/
def decodeTableWord (nbits w : Nat) : Option Instr :=
  match decode tableVariantBit (tableHalf (tableWord nbits w)) (tableWord nbits w) with
  | .ok i => some i
  | .error _ => none

/-! The encoder, from the same tables. -/

/-- RMODE (30_encoding.md R75). -/
def RMode.bits : RMode → BitVec 2
  | .xz => 0
  | .n => 1
  | .addr => 2
  | .regAddr => 3

/-- ADDRSEL (30_encoding.md R76). -/
def AddrSel.bits : AddrSel → BitVec 2
  | .zero => 0
  | .b => 1
  | .c => 2
  | .d => 3

/-- ADDLSEL (30_encoding.md R77). -/
def AddlSel.bits : AddlSel → BitVec 2
  | .zero => 0
  | .a => 1
  | .diva => 2
  | .n => 3

/-- BCSEL (30_encoding.md R72). -/
def BcSel.bits : BcSel → BitVec 4
  | .keep => 0
  | .cAns => 1
  | .cLsh => 2
  | .cRsh => 3
  | .bAns => 4
  | .bAnsCAns => 5
  | .bAnsCLsh => 6
  | .bAnsCRsh => 7
  | .bLsh => 8
  | .bLshCAns => 9
  | .bLshCLsh => 10
  | .bReg => 11
  | .bRsh => 12
  | .bRshCAns => 13
  | .cReg => 14
  | .bRshCRsh => 15

/-- A plain or LOOP word with opcode `opc` (30_encoding.md R61). -/
def encodeFields (opc : BitVec 5) (f : Fields) : Word :=
  0#1 ++ bit f.copr ++ opc ++ bit f.aans ++ f.bc.bits ++ bit f.dans ++ bit f.store ++ f.rmode.bits
    ++ bit f.mul ++ bit f.inv ++ f.addr.bits ++ f.addl.bits ++ bit f.cfin ++ bit f.one ++ f.low

/-- An address word with opcode `opc` and variant `v` (30_encoding.md R64, R69). -/
def encodeAddress (vb : VariantBit) (opc : BitVec 5) (v lsh : Bool) (target : Addr) : Word :=
  (0#2 ++ opc ++ 0#1 ++ bit lsh ++ 0#7 ++ target) ||| ((bit v).setWidth 32 <<< vb.pos)

/-- The word of an instruction; a compressed half stands alone in its word, the other half's bits 0
(30_encoding.md R61, R64, R65, R67, R70). -/
def encode (vb : VariantBit) : Instr → Word
  | .nop f => encodeFields 0 f
  | .iX f => encodeFields 1 f
  | .b l t => encodeAddress vb 2 false l t
  | .jb l t => encodeAddress vb 2 true l t
  | .bcf0 l t => encodeAddress vb 3 false l t
  | .bcf1 l t => encodeAddress vb 3 true l t
  | .bzf0 l t => encodeAddress vb 4 false l t
  | .bzf1 l t => encodeAddress vb 4 true l t
  | .bc0 l t => encodeAddress vb 5 false l t
  | .bc1 l t => encodeAddress vb 5 true l t
  | .call l t => encodeAddress vb 6 false l t
  | .jcall l t => encodeAddress vb 6 true l t
  | .call0 l t => encodeAddress vb 7 false l t
  | .call1 l t => encodeAddress vb 7 true l t
  | .ret f => encodeFields 8 f
  | .jret f => encodeFields 9 f
  | .ret0 f => encodeFields 10 f
  | .ret1 f => encodeFields 11 f
  | .loop f => encodeFields 12 f
  | .wait f => encodeFields 13 f
  | .dReg f => encodeFields 14 f
  | .undefined15 f => encodeFields 15 f
  | .add f => encodeFields 16 f
  | .and f => encodeFields 17 f
  | .xor f => encodeFields 18 f
  | .or f => encodeFields 19 f
  | .mov f => encodeFields 20 f
  | .regbank f => encodeFields 21 f
  | .enable f => encodeFields 22 f
  | .disable f => encodeFields 23 f
  | .returni f => encodeFields 24 f
  | .popsp f => encodeFields 25 f
  | .iostrobe f => encodeFields 26 f
  | .outputk f => encodeFields 27 f
  | .inputoutput f => encodeFields 28 f
  | .input f => encodeFields 29 f
  | .output f => encodeFields 30 f
  | .undefined31 f => encodeFields 31 f
  | .compressedUpper k p => 1#1 ++ k ++ p ++ 0#16
  | .compressedLower k p => 1#1 ++ 0#15 ++ 1#1 ++ k ++ p

/-- Which half bit the word of an instruction is read under: true for a lower half. -/
def Instr.half : Instr → Bool
  | .compressedLower _ _ => true
  | _ => false

end Sys2Proof
end

