-- ==== Sys2Proof/Machine/Fetch.lean ====
section
/-!
DEFINITION. The fetch: from the state to the instruction to execute, or the stop the spec names.
-/

namespace Sys2Proof.Machine

/-- The word at pc (10_state.md R17, R29). -/
def fetchWord (s : State) : Except Fault Word :=
  match programWord s s.pc.toNat with
  | some w => .ok w
  | none =>
    if s.pc.toNat < s.cfg.pmemWords then .error .programWordNotLoaded else .error .fetchOutside

/-- The passage through address 1 (42_control_transfer.md R176): under an indirect jump its word must
be the bare NOP; without one, address 1 may not be reached at all (log 16). -/
def addressOneRefusal (s : State) (w : Word) : Option Refusal :=
  if s.ind then (if w = 0 then none else some .addressOneNotNop)
  else if s.pc = 1 then some .reachedAddressOne
  else none

/-- What a word that is no instruction stops with. -/
def decodeRefusal : DecodeError → Refusal
  | .fieldWithAddress => .fieldWithAddress
  | .coprInBranch => .coprInBranch
  | .lowHalfNotCompressed => .lowHalfNotCompressed

/-- The instruction at pc, under the half bit HL (30_encoding.md R60, R69; 43_compressed.md R191). -/
def fetchInstr (s : State) : Host.Outcome Instr Fault Refusal :=
  match fetchWord s with
  | .error x => .fault x
  | .ok w =>
    match addressOneRefusal s w with
    | some r => .refused r
    | none =>
      match decode s.cfg.variantBit s.hl w with
      | .ok i => .next i
      | .error e => .refused (decodeRefusal e)

/-- The half bit that makes the fetch read a table word as its row (log 18). -/
def halfFor (w : Word) (hl : Bool) : Bool := if w.getLsbD 31 then tableHalf w else hl

end Sys2Proof.Machine
end

