-- ==== Sys2Proof/Machine/Step.lean ====
section
/-!
DEFINITION. One step: an interrupt entry, or the instruction at pc (60_exceptions.md R235;
70_reset_and_hazards.md R273); then the interrupt lines move on.
-/

namespace Sys2Proof.Machine

/-- The outcome of a step with the lines moved on. -/
def afterStep : Result → Result
  | .next s => .next (nextLines s)
  | .fault x => .fault x
  | .refused r => .refused r

/-- The instruction at pc executes. -/
def runInstruction (s : State) : Result :=
  match fetchInstr s with
  | .next i => exec i s
  | .fault x => .fault x
  | .refused r => .refused r

/-- One step. -/
def step (s : State) : Host.Outcome State Fault Refusal :=
  match boundary s with
  | .enter => afterStep (.next (interruptEntry s))
  | .refuse => .refused .irqInTransfer
  | .run => afterStep (runInstruction s)

/-- `s` with the word of a table row stored where the next step fetches, and, for a compressed word, the
half bit that selects the row's half (log 10, log 18). -/
def State.withFetchWord (s : State) (nbits w : Nat) : State :=
  { s with
    pmem := s.pmem.store s.pc.toNat (tableWord nbits w)
    hl := halfFor (tableWord nbits w) s.hl }

end Sys2Proof.Machine
end

