-- ==== Sys2Proof/Machine/Timing.lean ====
section
/-!
DEFINITION. The derived cycle count (70_reset_and_hazards.md R272, R273). No step depends on it.
-/

namespace Sys2Proof.Machine

/-- The cycles of one executed instruction, where R272 states them: one, and one stall more for JB,
JCALL, JRETURN and the start of a compressed half. RETURNI and the passage through address 1 have no
stated count. -/
def cycles (i : Instr) (s : State) : Option Nat :=
  if s.ind then none
  else
    match i with
    | .jb _ _ | .jcall _ _ | .jret _ | .compressedUpper _ _ | .compressedLower _ _ => some 2
    | .returni _ => none
    | .nop _ | .iX _ | .b _ _ | .bcf0 _ _ | .bcf1 _ _ | .bzf0 _ _ | .bzf1 _ _ | .bc0 _ _
    | .bc1 _ _ | .call _ _ | .call0 _ _ | .call1 _ _ | .ret _ | .ret0 _ | .ret1 _ | .loop _
    | .wait _ | .dReg _ | .add _ | .and _ | .xor _ | .or _ | .mov _ | .regbank _ | .enable _
    | .disable _ | .popsp _ | .iostrobe _ | .outputk _ | .inputoutput _ | .input _
    | .output _ => some 1
    | .undefined15 _ | .undefined31 _ => none

end Sys2Proof.Machine
end

