-- ==== Sys2Proof/Safety.lean ====
section
/-!
DEFINITION. What a sound state is, what a run of several steps is, and when a run has ended.
-/

namespace Sys2Proof.Machine

/-- The relations between fields of the state that every step keeps. -/
structure State.Inv (s : State) : Prop where
  /-- The parameters are legal (00_scope.md R6). -/
  config : s.cfg.Legal
  /-- The bank is implemented (10_state.md R13). -/
  bank : s.bank.toNat < s.cfg.numBanks
  /-- The return stack is within its depth (10_state.md R23). -/
  stack : s.stk.length ≤ s.cfg.stackDepth
  /-- Data memory is in canonical form. -/
  dataForm : s.dmem.wf = true
  /-- Data memory holds nothing outside its size (10_state.md R28). -/
  dataSize : s.dmem.below s.cfg.dmemBytes = true
  /-- Program memory is in canonical form. -/
  programForm : s.pmem.wf = true
  /-- Program memory holds nothing outside its size (10_state.md R29). -/
  programSize : s.pmem.below s.cfg.pmemWords = true
  /-- An indirect jump in flight is at address 1, with no other transfer pending (10_state.md R18). -/
  indirect : s.ind = true → s.pc = 1 ∧ s.pend = none
  /-- A compressed instruction in progress has its return address on the stack (10_state.md R22). -/
  compressed : ∀ d, s.cip = some d → 1 ≤ d ∧ d ≤ s.stk.length
  /-- The grace after RETURNI belongs to the interrupted program (10_state.md R26). -/
  grace : s.ins = true → s.gr = false
  /-- After a fall-through no transfer is about (10_state.md R27). -/
  sequential : s.seq = true → s.pend = none ∧ s.ind = false
  /-- The readable interrupt return address is the true one plus the offset, or unknown (R27). -/
  readable : ∀ v, s.irav = some v → v = s.ira + BitVec.ofNat 16 s.cfg.iraReadOffset

/-- `n` steps, or the first stop among them. -/
def run : Nat → State → Result
  | 0, s => .next s
  | n + 1, s =>
    match step s with
    | .next t => run n t
    | .fault x => .fault x
    | .refused r => .refused r

/-- A run with the end-of-run address `halt` has ended normally (70_reset_and_hazards.md R270): the
word there is the jump to itself, and nothing is in flight. -/
def EndsNormally (halt : Addr) (s : State) : Prop :=
  s.pc = halt ∧ s.pend = none ∧ s.ind = false ∧ s.ins = false ∧
    s.pmem.lookup halt.toNat = some (encode s.cfg.variantBit (.jb false halt))

end Sys2Proof.Machine
end

