-- ==== Sys2Proof/Certificates/Slice0/Obligations.lean ====
section
/-!
DEFINITION. The statements for the provers. They restate the rules of spec/ over whole numbers, apart from
the definitions of the model: `Sys2Proof.Spec` holds that second reading of 40_datapath_fields.md R113.
A known byte of memory is read with `Memory.lookup`, the part of `readByte` that draws nothing.
-/

namespace Sys2Proof.Spec

open Sys2Proof.Machine

/-- The fields of a word of the plain or LOOP form (30_encoding.md R61, R65). -/
def fieldsOf : Instr → Option Fields
  | .nop f | .iX f | .ret f | .jret f | .ret0 f | .ret1 f | .loop f | .wait f | .dReg f
  | .undefined15 f | .add f | .and f | .xor f | .or f | .mov f | .regbank f | .enable f
  | .disable f | .returni f | .popsp f | .iostrobe f | .outputk f | .inputoutput f | .input f
  | .output f | .undefined31 f => some f
  | _ => none

/-- Whether a word of the address form has `B=LSH` (30_encoding.md R64). -/
def lshOf : Instr → Option Bool
  | .b l _ | .jb l _ | .bcf0 l _ | .bcf1 l _ | .bzf0 l _ | .bzf1 l _ | .bc0 l _ | .bc1 l _
  | .call l _ | .jcall l _ | .call0 l _ | .call1 l _ => some l
  | _ => none

/-- Which of the two mnemonics of its opcode a word of the address form is: V (30_encoding.md R69). -/
def variantOf : Instr → Option Bool
  | .b _ _ | .bcf0 _ _ | .bzf0 _ _ | .bc0 _ _ | .call _ _ | .call0 _ _ => some false
  | .jb _ _ | .bcf1 _ _ | .bzf1 _ _ | .bc1 _ _ | .jcall _ _ | .call1 _ _ => some true
  | _ => none

/-- AND, XOR, OR: the opcodes 17, 18, 19. -/
def isLogic : Instr → Bool
  | .and _ | .xor _ | .or _ => true
  | _ => false

/-- INPUTOUTPUT, INPUT: the opcodes 28, 29. -/
def isInput : Instr → Bool
  | .inputoutput _ | .input _ => true
  | _ => false

/-- An instruction that may not stand in a delay slot: the opcodes 2 to 13, RETURNI and a compressed
word (42_control_transfer.md R153). -/
def notInSlot : Instr → Bool
  | .b _ _ | .jb _ _ | .bcf0 _ _ | .bcf1 _ _ | .bzf0 _ _ | .bzf1 _ _ | .bc0 _ _ | .bc1 _ _
  | .call _ _ | .jcall _ _ | .call0 _ _ | .call1 _ _ | .ret _ | .jret _ | .ret0 _ | .ret1 _
  | .loop _ | .wait _ | .returni _ | .compressedUpper _ _ | .compressedLower _ _ => true
  | _ => false

/-! ### The datapath over whole numbers (40_datapath_fields.md R113) -/

/-- `LOW`, which is N (30_encoding.md R62). -/
def low (f : Fields) (s : State) : Nat := if f.copr then s.co.toNat else f.low.toNat

/-- `l`, multiply gate included. -/
def leftIn (f : Fields) (s : State) : Nat :=
  if f.mul = true ∧ s.c.toNat % 2 = 0 then 0
  else
    match f.addl with
    | .zero => 0
    | .a => s.a.toNat
    | .diva => s.a.toNat % 128 * 2 + s.b.toNat / 128
    | .n => low f s

/-- `r`, before the inverter. -/
def rightReg (f : Fields) (s : State) : Nat :=
  match f.addr with
  | .zero => 0
  | .b => s.b.toNat
  | .c => s.c.toNat
  | .d => s.d.toNat

/-- `rn`. -/
def rightIn (f : Fields) (s : State) : Nat :=
  if f.inv then 255 - rightReg f s else rightReg f s

/-- `sum9`. -/
def total (f : Fields) (s : State) : Nat :=
  leftIn f s + rightIn f s + (if (f.cfin = true ∧ s.cf = true) ∨ f.one = true then 1 else 0)

/-- The result DivStep lists for this divide step: none where it is the default of R99. -/
def divListed (f : Fields) (s : State) : Option DivOut :=
  s.cfg.divStep.lookup { a := s.a, b := s.b, divisor := BitVec.ofNat 8 (rightIn f s),
                         cin := decide ((f.cfin = true ∧ s.cf = true) ∨ f.one = true) }

/-- `q` of a divide step (40_datapath_fields.md R99). -/
def quotient (f : Fields) (s : State) : Nat :=
  match divListed f s with
  | some x => x.q.toNat
  | none => if 128 ≤ s.a.toNat then 1 else total f s / 256

/-- The bit that enters C under `C=LSH` (40_datapath_fields.md R105). -/
def shiftedIn (f : Fields) (s : State) : Nat :=
  if f.addl = .diva then quotient f s
  else
    match s.cfg.shiftIn with
    | .cout => total f s / 256
    | .fixed v => v.toNat
    | .unknown => (Config.any8 s.draws .shiftIn).toNat % 2

/-- ANS under the opcodes that add (40_datapath_fields.md R96, R99). -/
def sumOrRest (f : Fields) (s : State) : Nat :=
  if f.addl = .diva then
    match divListed f s with
    | some x => x.ans.toNat
    | none => if quotient f s = 0 then leftIn f s else total f s % 256
  else total f s % 256

/-- A byte of the readable interrupt return address; a free value while it is unknown. -/
def iravPart (s : State) (part : Nat → Nat) : Nat :=
  match s.irav with
  | some v => part v.toNat
  | none => (Config.any8 s.draws .irav).toNat

/-- `in_byte(z)` (44_io_opcodes.md R212), for z below 5 and a stack that is not empty where it is read. -/
def inputByte (z : Nat) (s : State) : Nat :=
  match z with
  | 0 => (s.portIn.headD (Config.any8 s.draws .port)).toNat
  | 1 => (s.stk.headD 0).toNat % 256
  | 2 => (s.stk.headD 0).toNat / 256
  | 3 => iravPart s (· % 256)
  | _ => iravPart s (· / 256)

/-- `ANS`. -/
def answer (i : Instr) (f : Fields) (s : State) : Nat :=
  match i with
  | .and _ => leftIn f s &&& rightIn f s
  | .xor _ => leftIn f s ^^^ rightIn f s
  | .or _ => leftIn f s ||| rightIn f s
  | .inputoutput _ | .input _ => inputByte (low f s % 16) s
  | _ => sumOrRest f s

/-- `bsel`, from the four bits of the code (30_encoding.md R72). -/
def bSel (f : Fields) : Nat :=
  if f.bc.bits.toNat = 11 ∨ f.bc.bits.toNat = 14 then 0 else f.bc.bits.toNat / 4

/-- `csel`, from the four bits of the code (30_encoding.md R72). -/
def cSel (f : Fields) : Nat :=
  if f.bc.bits.toNat = 11 ∨ f.bc.bits.toNat = 14 then 0 else f.bc.bits.toNat % 4

/-- `A'`. -/
def newA (i : Instr) (f : Fields) (s : State) : Nat :=
  if f.aans then answer i f s else s.a.toNat

/-- `B'`. -/
def newB (i : Instr) (f : Fields) (s : State) : Nat :=
  if f.bc.bits.toNat = 11 then s.reg.toNat
  else
    match bSel f with
    | 0 => s.b.toNat
    | 1 => answer i f s
    | 2 => s.b.toNat % 128 * 2 + s.c.toNat / 128
    | _ => total f s / 256 * 128 + answer i f s / 2

/-- `C'`. -/
def newC (i : Instr) (f : Fields) (s : State) : Nat :=
  if f.bc.bits.toNat = 14 then s.reg.toNat
  else
    match cSel f with
    | 0 => s.c.toNat
    | 1 => answer i f s
    | 2 => s.c.toNat % 128 * 2 + shiftedIn f s
    | _ => answer i f s % 2 * 128 + s.c.toNat / 2

/-- `D'`. -/
def newD (i : Instr) (f : Fields) (s : State) : Nat :=
  if f.dans then (if i = .dReg f then s.reg.toNat else answer i f s) else s.d.toNat

/-- `CF'`. -/
def newCf (i : Instr) (f : Fields) (s : State) : Bool :=
  match i with
  | .add _ => decide (256 ≤ total f s)
  | _ => s.cf

/-- `ZF'`. -/
def newZf (i : Instr) (f : Fields) (s : State) : Bool :=
  if isLogic i then decide (answer i f s = 0 ∧ (f.cfin = true → s.zf = true)) else s.zf

/-- What STORE writes. -/
def stored (i : Instr) (f : Fields) (s : State) : Byte := if i = .mov f then s.reg else s.a

/-- The word stores to the byte at `x`. -/
def StoresTo (f : Fields) (s : State) (x : Nat) : Prop := f.store = true ∧ x = writeAddress f s

/-- The field combinations that have a meaning (40_datapath_fields.md R93, R96; 20_memory.md R45). -/
abbrev FieldsOk (i : Instr) (f : Fields) : Prop :=
  ¬ (f.mul = true ∧ f.addl = .diva) ∧
  ¬ (f.inv = true ∧ (f.rmode = .addr ∨ f.rmode = .regAddr)) ∧
  (isLogic i = true → f.mul = false ∧ f.addl ≠ .diva ∧ bSel f ≠ 3 ∧ cSel f ≠ 2) ∧
  (isInput i = true → bSel f ≠ 3 ∧ cSel f ≠ 2 ∧ cSel f ≠ 3)

/-- The data addresses of the word exist (20_memory.md R47). -/
abbrev AddressOk (f : Fields) (s : State) : Prop :=
  (f.rmode = .xz → 16 * s.bank.toNat + 15 < s.cfg.spadBytes) ∧
  (f.rmode = .n → low f s < s.cfg.spadBytes) ∧
  (f.rmode = .addr → rightReg f s < s.cfg.spadBytes) ∧
  (f.rmode = .regAddr → 256 * s.reg.toNat + rightReg f s < s.cfg.dmemBytes)

/-- The effect of the fields on A, B, C, D, CF, ZF and data memory. -/
structure Datapath (i : Instr) (f : Fields) (s t : State) : Prop where
  a : t.a.toNat = newA i f s
  b : t.b.toNat = newB i f s
  c : t.c.toNat = newC i f s
  d : t.d.toNat = newD i f s
  cf : t.cf = newCf i f s
  zf : t.zf = newZf i f s
  written : ∀ x, StoresTo f s x → t.dmem.lookup x = some (stored i f s)
  kept : ∀ x, ¬ StoresTo f s x → t.dmem.lookup x = s.dmem.lookup x

/-- The word delivers to REG the byte it read, where R112 does not leave it open and the byte is known
(40_datapath_fields.md R111). -/
def RegLoaded (f : Fields) (s t : State) : Prop :=
  ¬ StoresTo f s (readAddress f s) →
    ∀ v, s.dmem.lookup (readAddress f s) = some v → t.reg = v

/-- The effect of an address word on the same state: `B=LSH` or nothing (30_encoding.md R64). -/
structure AddressWord (lsh : Bool) (s t : State) : Prop where
  a : t.a = s.a
  b : t.b.toNat = if lsh then s.b.toNat % 128 * 2 + s.c.toNat / 128 else s.b.toNat
  c : t.c = s.c
  d : t.d = s.d
  cf : t.cf = s.cf
  zf : t.zf = s.zf
  kept : ∀ x, t.dmem.lookup x = s.dmem.lookup x

/-- A, B, C, D, CF, ZF and data memory are as before. -/
structure Untouched (s t : State) : Prop where
  a : t.a = s.a
  b : t.b = s.b
  c : t.c = s.c
  d : t.d = s.d
  cf : t.cf = s.cf
  zf : t.zf = s.zf
  kept : ∀ x, t.dmem.lookup x = s.dmem.lookup x

/-! ### The rest of the state -/

/-- Everything in the state that neither the datapath nor the control part of a step writes. -/
structure Special where
  i : Nibble
  co : Byte
  hl : Bool
  stk : List Addr
  bank : Nibble
  ie : Bool
  ins : Bool
  ira : Addr
  irav : Option Addr
  cip : Option Nat
  pmem : Memory 32
  cfg : Config
  lines : Bool × Bool × List (Bool × Bool)
  portIn : List Byte
  trace : List IoEvent

/-- That part of a state. -/
def special (s : State) : Special :=
  { i := s.i, co := s.co, hl := s.hl, stk := s.stk, bank := s.bank, ie := s.ie, ins := s.ins,
    ira := s.ira, irav := s.irav, cip := s.cip, pmem := s.pmem, cfg := s.cfg,
    lines := (s.irq0, s.irq1, s.irqNext), portIn := s.portIn, trace := s.trace }

/-- Where control stands after a step: at `pc`, with `pend` pending, IND, SEQ, and no grace left. -/
structure At (t : State) (pc : Nat) (pend : Option Delayed) (ind seq : Bool) : Prop where
  pc : t.pc.toNat = pc
  pend : t.pend = pend
  ind : t.ind = ind
  seq : t.seq = seq
  gr : t.gr = false

/-- The address after pc, modulo 2^16. -/
def nextAddr (s : State) : Nat := (s.pc.toNat + 1) % 65536

/-- Control after an instruction that decides no transfer (42_control_transfer.md R151, R176). -/
def Falls (s t : State) : Prop :=
  match s.pend with
  | some (.one g) => At t g.toNat none (decide (g = 1)) false
  | some (.two g) => At t (nextAddr s) (some (.one g)) false false
  | none =>
    if s.ind then At t (256 * s.a.toNat + s.b.toNat) none false false
    else At t (nextAddr s) none false true

/-- The instruction is not the passage of an indirect jump through address 1, after which REG is open
(42_control_transfer.md R176). -/
def NotPassing (s : State) : Prop := ¬ (s.ind = true ∧ s.pend = none)

/-- A word with fields and without a transfer did everything it should but for its opcode's own
effect. -/
structure Ordinary (i : Instr) (f : Fields) (s t : State) : Prop where
  datapath : Datapath i f s t
  goes : Falls s t
  loaded : NotPassing s → RegLoaded f s t

/-- CIP after a pop that leaves `n` entries (43_compressed.md R195). -/
def cipLeft (s : State) (n : Nat) : Option Nat := s.cip.filter fun d => decide (d ≤ n)

/-- The same instruction executed `n` times, or the first stop among them. -/
def repeated (i : Instr) : Nat → State → Result
  | 0, s => .next s
  | n + 1, s =>
    match exec i s with
    | .next t => repeated i n t
    | .fault x => .fault x
    | .refused r => .refused r

/-- A request is present and would be accepted between two instructions (60_exceptions.md R235). -/
abbrev Accept (s : State) : Prop :=
  (s.irq0 = true ∨ s.irq1 = true) ∧ s.ie = true ∧ s.ins = false ∧ s.gr = false

/-- The fields of the multiply step `MUL;ADDL=A;ADDR=B;B=RSH;C=RSH` (40_datapath_fields.md R114). -/
def multiplyFields : Fields :=
  { Fields.bare with mul := true, addl := .a, addr := .b, bc := .bRshCRsh }

/-- The fields of the divide step `ADDL=DIVA;ADDR=D;ONE;NOT;A=ANS;B=LSH;C=LSH` (40_datapath_fields.md
R114). -/
def divideFields : Fields :=
  { Fields.bare with addl := .diva, addr := .d, one := true, inv := true, aans := true,
                     bc := .bLshCLsh }

end Sys2Proof.Spec

open Sys2Proof Sys2Proof.Machine Sys2Proof.Spec

/-! ## Encoding -/

/-- 30_encoding.md R61, R64, R65, R67, R69, R70: no bit of an encoding is dropped: under every VARIANT_BIT,
decoding the word of a well-formed instruction, with every operand at every value, gives the instruction
back. -/
def Obligations.DecodeOfEncode : Prop :=
  ∀ (vb : VariantBit) (i : Instr), i.wf = true → decode vb i.half (encode vb i) = .ok i

/-- 30_encoding.md R61, R64, R69, R70: under every VARIANT_BIT, a normal word that decodes is the word of the
instruction it decodes to, so no two normal words are one instruction. -/
def Obligations.NormalWordReencodes : Prop :=
  ∀ (vb : VariantBit) (hl : Bool) (w : Word) (i : Instr),
    w.getLsbD 31 = false → decode vb hl w = .ok i → encode vb i = w ∧ i.wf = true

/-- 30_encoding.md R61, R78: where the single-bit fields of a plain or LOOP word are. -/
def Obligations.SingleBitFields : Prop :=
  ∀ (vb : VariantBit) (hl : Bool) (w : Word) (i : Instr) (f : Fields),
    decode vb hl w = .ok i → fieldsOf i = some f →
      f.mul = w.getLsbD 15 ∧ f.inv = w.getLsbD 14 ∧ f.cfin = w.getLsbD 9 ∧ f.one = w.getLsbD 8 ∧
        f.aans = w.getLsbD 24 ∧ f.store = w.getLsbD 18

/-- 43_compressed.md R192, R193; 30_encoding.md R67: a compressed word whose low half is compressed is its
upper half while HL = 0 and its lower half while HL = 1; one whose low half is not is refused while HL = 1.
The layout of the low half is the spec's decision D22 (log 18). -/
def Obligations.CompressedHalvesDecode : Prop :=
  ∀ (vb : VariantBit) (k k' : BitVec 7) (p p' : Byte),
    decode vb false (1#1 ++ k ++ p ++ 1#1 ++ k' ++ p') = .ok (.compressedUpper k p) ∧
      decode vb true (1#1 ++ k ++ p ++ 1#1 ++ k' ++ p') = .ok (.compressedLower k' p') ∧
      decode vb true (1#1 ++ k ++ p ++ 0#1 ++ k' ++ p') = .error .lowHalfNotCompressed

/-- 30_encoding.md R64, R66, R69 (the spec's decisions D6, D32; log 2, log 28): under every VARIANT_BIT, a word
with an opcode 2 to 7 decodes exactly where COPR is 0 and so is every bit of 24 to 16 but `B=LSH`, bit 23,
and the variant bit; then those two bits tell its `B=LSH` and which of the two mnemonics it is. -/
def Obligations.AddressFormExclusions : Prop :=
  ∀ (vb : VariantBit) (hl : Bool) (w : Word), w.getLsbD 31 = false →
    2 ≤ (w.extractLsb' 25 5).toNat → (w.extractLsb' 25 5).toNat ≤ 7 →
      (if w.getLsbD 30 then decode vb hl w = .error .coprInBranch
      else if ∀ k ∈ ([16, 17, 18, 19, 20, 21, 22, 24] : List Nat), k ≠ vb.pos → w.getLsbD k = false then
        ∃ i, decode vb hl w = .ok i ∧ lshOf i = some (w.getLsbD 23) ∧
          variantOf i = some (w.getLsbD vb.pos)
      else decode vb hl w = .error .fieldWithAddress)

/-- 30_encoding.md R70, the opcode map: the word of each opcode without fields, both mnemonics of the opcodes 2
to 7; and R82, worked encodings of the spec. The values of RMODE, ADDRSEL, ADDLSEL, the bit order of the
B/C code and VARIANT_BIT = 16 are the spec's own decisions D2 to D6 (log 1, log 2): the sources give none. -/
def Obligations.WorkedEncodings : Prop :=
  (decode .bit16 false 0x00000000#32 = .ok (.nop Fields.bare) ∧
  decode .bit16 false 0x02000000#32 = .ok (.iX Fields.bare) ∧
  decode .bit16 false 0x04000010#32 = .ok (.b false 0x0010) ∧
  decode .bit16 false 0x04010010#32 = .ok (.jb false 0x0010) ∧
  decode .bit16 false 0x06000010#32 = .ok (.bcf0 false 0x0010) ∧
  decode .bit16 false 0x06010010#32 = .ok (.bcf1 false 0x0010) ∧
  decode .bit16 false 0x08000010#32 = .ok (.bzf0 false 0x0010) ∧
  decode .bit16 false 0x08010010#32 = .ok (.bzf1 false 0x0010) ∧
  decode .bit16 false 0x0A000123#32 = .ok (.bc0 false 0x0123) ∧
  decode .bit16 false 0x0A010123#32 = .ok (.bc1 false 0x0123) ∧
  decode .bit16 false 0x0C000010#32 = .ok (.call false 0x0010) ∧
  decode .bit16 false 0x0C010010#32 = .ok (.jcall false 0x0010) ∧
  decode .bit16 false 0x0E000010#32 = .ok (.call0 false 0x0010) ∧
  decode .bit16 false 0x0E010010#32 = .ok (.call1 false 0x0010) ∧
  decode .bit16 false 0x10000000#32 = .ok (.ret Fields.bare) ∧
  decode .bit16 false 0x12000000#32 = .ok (.jret Fields.bare) ∧
  decode .bit16 false 0x14000000#32 = .ok (.ret0 Fields.bare) ∧
  decode .bit16 false 0x16000000#32 = .ok (.ret1 Fields.bare) ∧
  decode .bit16 false 0x18000000#32 = .ok (.loop Fields.bare) ∧
  decode .bit16 false 0x1A000000#32 = .ok (.wait Fields.bare) ∧
  decode .bit16 false 0x1C000000#32 = .ok (.dReg Fields.bare) ∧
  decode .bit16 false 0x1E000000#32 = .ok (.undefined15 Fields.bare) ∧
  decode .bit16 false 0x20000000#32 = .ok (.add Fields.bare) ∧
  decode .bit16 false 0x22000000#32 = .ok (.and Fields.bare) ∧
  decode .bit16 false 0x24000000#32 = .ok (.xor Fields.bare) ∧
  decode .bit16 false 0x26000000#32 = .ok (.or Fields.bare) ∧
  decode .bit16 false 0x28000000#32 = .ok (.mov Fields.bare) ∧
  decode .bit16 false 0x2A000000#32 = .ok (.regbank Fields.bare) ∧
  decode .bit16 false 0x2C000000#32 = .ok (.enable Fields.bare) ∧
  decode .bit16 false 0x2E000000#32 = .ok (.disable Fields.bare) ∧
  decode .bit16 false 0x30000000#32 = .ok (.returni Fields.bare) ∧
  decode .bit16 false 0x32000000#32 = .ok (.popsp Fields.bare) ∧
  decode .bit16 false 0x34000000#32 = .ok (.iostrobe Fields.bare) ∧
  decode .bit16 false 0x36000000#32 = .ok (.outputk Fields.bare) ∧
  decode .bit16 false 0x38000000#32 = .ok (.inputoutput Fields.bare) ∧
  decode .bit16 false 0x3A000000#32 = .ok (.input Fields.bare) ∧
  decode .bit16 false 0x3C000000#32 = .ok (.output Fields.bare) ∧
  decode .bit16 false 0x3E000000#32 = .ok (.undefined31 Fields.bare)) ∧
  (decode .bit16 false 0x00B000F0#32 = .ok (.nop { Fields.bare with bc := .bReg, low := 0xF0 }) ∧
  decode .bit16 false 0x00031000#32 = .ok (.nop { Fields.bare with rmode := .regAddr, addr := .b }) ∧
  decode .bit16 false 0x1C0800E0#32 = .ok (.dReg { Fields.bare with dans := true, low := 0xE0 }) ∧
  decode .bit16 false 0x02E00070#32 = .ok (.iX { Fields.bare with bc := .cReg, low := 0x70 }) ∧
  decode .bit16 false 0x1AF09400#32 = .ok (.wait multiplyFields) ∧
  decode .bit16 false 0x1BA07900#32 = .ok (.wait divideFields) ∧
  decode .bit16 false 0x11000C5A#32 =
    .ok (.ret { Fields.bare with aans := true, addl := .n, low := 0x5A }) ∧
  decode .bit16 false 0x3A100000#32 = .ok (.input { Fields.bare with bc := .cAns }))

/-! ## The step -/

/-- 10_state.md R17; 60_exceptions.md R235; 70_reset_and_hazards.md R273: where no request is accepted,
the word at pc is loaded and may be reached, and it decodes to `i`, the step is `exec` of `i`, after which
the interrupt lines move on. -/
def Obligations.StepRunsDecodedInstruction : Prop :=
  ∀ (s : State) (w : Word) (i : Instr),
    ¬ Accept s → s.pc.toNat < s.cfg.pmemWords → s.pmem.lookup s.pc.toNat = some w →
    (s.ind = true → w = 0) → (s.ind = false → s.pc ≠ 1) → decode s.cfg.variantBit s.hl w = .ok i →
      i.wf = true ∧
      step s = match exec i s with
        | .next t => .next (nextLines t)
        | .fault x => .fault x
        | .refused r => .refused r

/-- 10_state.md R17; 30_encoding.md R64, R66, R67; 42_control_transfer.md R176 (the spec's decisions D20, D22,
D32; log 16): what a fetch stops on: an address outside program memory, a word never loaded (the model's own,
log 10), address 1 reached without an indirect jump, another word than the bare NOP there under one, and a
word that decodes to no instruction, each by the name of its reason. -/
def Obligations.FetchStops : Prop :=
  ∀ s : State, ¬ Accept s →
    (s.cfg.pmemWords ≤ s.pc.toNat → step s = .fault .fetchOutside) ∧
    (s.pc.toNat < s.cfg.pmemWords →
      (s.pmem.lookup s.pc.toNat = none → step s = .fault .programWordNotLoaded) ∧
      (∀ w, s.pmem.lookup s.pc.toNat = some w →
        (s.ind = false → s.pc = 1 → step s = .refused .reachedAddressOne) ∧
        (s.ind = true → w ≠ 0 → step s = .refused .addressOneNotNop) ∧
        (s.ind = false → s.pc ≠ 1 → ∀ e, decode s.cfg.variantBit s.hl w = .error e →
          step s = match e with
            | .fieldWithAddress => .refused .fieldWithAddress
            | .coprInBranch => .refused .coprInBranch
            | .lowHalfNotCompressed => .refused .lowHalfNotCompressed)))

/-! ## Invariants of every step -/

/-- Every step from a sound state leads to a sound state (the relations of `State.Inv` with the rules
named there). -/
def Obligations.StepKeepsInvariant : Prop :=
  ∀ s t : State, s.Inv → step s = .next t → t.Inv

/-- The reset state is sound. -/
def Obligations.ResetIsSound : Prop := State.reset.Inv

/-- 20_memory.md R52: no step changes program memory, nor the parameters of the run. -/
def Obligations.StepKeepsProgram : Prop :=
  ∀ s t : State, step s = .next t → t.pmem = s.pmem ∧ t.cfg = s.cfg

/-- 44_io_opcodes.md R205, R215: a step appends at most one event to the trace and takes at most one answer
of the environment, and it takes one only with an event. -/
def Obligations.StepEmitsAtMostOneEvent : Prop :=
  ∀ s t : State, step s = .next t →
    (t.trace = s.trace ∧ t.portIn = s.portIn) ∨
      ∃ e, t.trace = s.trace ++ [e] ∧ (t.portIn = s.portIn ∨ t.portIn = s.portIn.tail)

/-- 10_state.md R33 (the spec's decision D25): what the spec gives of the reset state. -/
def Obligations.ResetState : Prop :=
  State.reset.pc = 0 ∧ State.reset.pend = none ∧ State.reset.ind = false ∧ State.reset.hl = false ∧
    State.reset.stk = [] ∧ State.reset.ins = false ∧ State.reset.gr = false ∧
    State.reset.seq = false ∧ State.reset.cip = none ∧ State.reset.irav = none

/-! ## What every instruction does to each register -/

/-- 40_datapath_fields.md R100: A takes ANS under AANS, bit 24, and nothing else writes it. -/
def Obligations.RegisterA : Prop :=
  (∀ (vb : VariantBit) (hl : Bool) (w : Word) (i : Instr) (f : Fields),
    decode vb hl w = .ok i → fieldsOf i = some f → f.aans = w.getLsbD 24) ∧
  ∀ (i : Instr) (s t : State), exec i s = .next t →
    (∀ f, fieldsOf i = some f → t.a.toNat = if f.aans then answer i f s else s.a.toNat) ∧
    (fieldsOf i = none → t.a = s.a)

/-- 40_datapath_fields.md R101, R102, R103, R108; 30_encoding.md R64, R72: B after every instruction. What
`B=LSH` and `B=RSH` shift in, and the bit order of the B/C code, are the spec's decisions D10 and D5 (log 19,
log 1). -/
def Obligations.RegisterB : Prop :=
  ∀ (i : Instr) (s t : State), exec i s = .next t →
    (∀ f, fieldsOf i = some f → t.b.toNat = newB i f s) ∧
    (∀ l, lshOf i = some l →
      t.b.toNat = if l then s.b.toNat % 128 * 2 + s.c.toNat / 128 else s.b.toNat) ∧
    (fieldsOf i = none → lshOf i = none → t.b = s.b)

/-- 40_datapath_fields.md R104, R105, R106, R109; 30_encoding.md R72: C after every instruction. What `C=LSH`
and `C=RSH` shift in, with ShiftIn and the quotient bit of DivStep, and the bit order of the B/C code are
the spec's decisions D10, D11 and D5 (log 19, log 1). -/
def Obligations.RegisterC : Prop :=
  ∀ (i : Instr) (s t : State), exec i s = .next t →
    (∀ f, fieldsOf i = some f → t.c.toNat = newC i f s) ∧ (fieldsOf i = none → t.c = s.c)

/-- 30_encoding.md R73; 40_datapath_fields.md R107: D takes ANS under DANS, bit 19, or REG where the opcode is
D=REG, and nothing else writes it. That D=REG without bit 19 leaves D alone is the spec's decision D35
(log 28). -/
def Obligations.RegisterD : Prop :=
  (∀ (vb : VariantBit) (hl : Bool) (w : Word) (i : Instr) (f : Fields),
    decode vb hl w = .ok i → fieldsOf i = some f →
      f.dans = w.getLsbD 19 ∧ (i = .dReg f ↔ (w.extractLsb' 25 5).toNat = 14)) ∧
  ∀ (i : Instr) (s t : State), exec i s = .next t →
    (∀ f, fieldsOf i = some f →
      (f.dans = true → i = .dReg f → t.d = s.reg) ∧
      (f.dans = true → i ≠ .dReg f → t.d.toNat = answer i f s) ∧
      (f.dans = false → t.d = s.d)) ∧
    (fieldsOf i = none → t.d = s.d)

/-- 40_datapath_fields.md R97: CF takes the carry out of the 8-bit addition under ADD, and no other
instruction writes it; ADD does not write ZF. -/
def Obligations.CarryFlag : Prop :=
  ∀ (i : Instr) (s t : State), exec i s = .next t →
    (∀ f, i = .add f → t.cf = decide (256 ≤ total f s) ∧ t.zf = s.zf) ∧
    ((∀ f, i ≠ .add f) → t.cf = s.cf)

/-- 40_datapath_fields.md R98: ZF is written under AND, XOR, OR only, and the CF field propagates it. -/
def Obligations.ZeroFlag : Prop :=
  ∀ (i : Instr) (s t : State), exec i s = .next t →
    (isLogic i = true → ∀ f, fieldsOf i = some f →
      (f.cfin = false → t.zf = decide (answer i f s = 0)) ∧
      (f.cfin = true → t.zf = (decide (answer i f s = 0) && s.zf))) ∧
    (isLogic i = false → t.zf = s.zf)

/-- 40_datapath_fields.md R110; 42_control_transfer.md R178: data memory after every instruction: STORE
writes the old A (REG under MOV) to the one byte at the write address, and every other byte reads as
before. -/
def Obligations.DataMemory : Prop :=
  ∀ (i : Instr) (s t : State), exec i s = .next t →
    (∀ f, fieldsOf i = some f → ∀ x,
      (StoresTo f s x → t.dmem.lookup x = some (if i = .mov f then s.reg else s.a)) ∧
      (¬ StoresTo f s x → t.dmem.lookup x = s.dmem.lookup x)) ∧
    (fieldsOf i = none → ∀ x, t.dmem.lookup x = s.dmem.lookup x)

/-- 40_datapath_fields.md R111, R112: REG after every word with fields is the byte at its read address,
where that byte is known and the case is none of those R112 leaves open. -/
def Obligations.RegPipeline : Prop :=
  ∀ (i : Instr) (f : Fields) (s t : State), exec i s = .next t → fieldsOf i = some f →
    NotPassing s → (∀ g, i ≠ .jret g) → (∀ g, i ≠ .returni g) → (∀ g, i ≠ .regbank g) →
    RegLoaded f s t

/-- 10_state.md R16; 41_opcodes_alu_misc.md R131; 42_control_transfer.md R171, R173: I takes X under I=X, is
counted down by LOOP and WAIT while it is not 0, and nothing else writes it. -/
def Obligations.LoopCounter : Prop :=
  ∀ (i : Instr) (s t : State), exec i s = .next t →
    (∀ f, i = .iX f → t.i.toNat = low f s / 16) ∧
    (∀ f, i = .loop f ∨ i = .wait f → t.i.toNat = s.i.toNat - 1) ∧
    ((∀ f, i ≠ .iX f) → (∀ f, i ≠ .loop f) → (∀ f, i ≠ .wait f) → t.i = s.i)

/-- 10_state.md R13, R21, R22, R25, R26, R27; 60_exceptions.md R249: which instruction may write each piece
of control state; IRA and IRAV are written by no instruction, only by interrupt entry. -/
def Obligations.ControlStateWriters : Prop :=
  ∀ (i : Instr) (s t : State), exec i s = .next t →
    ((∀ f, i ≠ .regbank f) → t.bank = s.bank) ∧
    ((∀ f, i ≠ .enable f) → (∀ f, i ≠ .disable f) → t.ie = s.ie) ∧
    ((∀ f, i ≠ .returni f) → t.ins = s.ins ∧ t.gr = false) ∧
    ((∀ k p, i ≠ .compressedUpper k p) → (∀ k p, i ≠ .compressedLower k p) →
      t.co = s.co ∧ ((∀ f, i ≠ .popsp f) → t.hl = s.hl)) ∧
    t.ira = s.ira ∧ t.irav = s.irav ∧ t.pmem = s.pmem ∧ t.cfg = s.cfg ∧
    t.irq0 = s.irq0 ∧ t.irq1 = s.irq1 ∧ t.irqNext = s.irqNext

/-- 10_state.md R23, R24; 42_control_transfer.md R178: only calls, returns, POPSP and compressed
instructions change the return stack, each by one entry. -/
def Obligations.StackWriters : Prop :=
  ∀ (i : Instr) (s t : State), exec i s = .next t →
    t.stk = s.stk ∨
    (t.stk = s.stk.tail ∧ s.stk ≠ [] ∧
      ∃ f, i = .ret f ∨ i = .jret f ∨ i = .ret0 f ∨ i = .ret1 f ∨ i = .popsp f) ∨
    (∃ v, t.stk = v :: s.stk ∧ s.stk.length < s.cfg.stackDepth ∧
      ((∃ l g, i = .call l g ∨ i = .jcall l g ∨ i = .call0 l g ∨ i = .call1 l g) ∨
        ∃ k p, i = .compressedUpper k p ∨ i = .compressedLower k p))

/-- 10_state.md R25: ENABLE sets IE, DISABLE clears it, and no instruction reads it: with another value of
IE every instruction does the very same, and every other instruction than these two leaves that value. -/
def Obligations.EnableStateIsNotRead : Prop :=
  (∀ (f : Fields) (s t : State), exec (.enable f) s = .next t → t.ie = true) ∧
  (∀ (f : Fields) (s t : State), exec (.disable f) s = .next t → t.ie = false) ∧
  (∀ (f : Fields) (s : State) (v : Bool),
    exec (.enable f) { s with ie := v } = exec (.enable f) s ∧
      exec (.disable f) { s with ie := v } = exec (.disable f) s) ∧
  ∀ (i : Instr) (s : State) (v : Bool), (∀ f, i ≠ .enable f) → (∀ f, i ≠ .disable f) →
    exec i { s with ie := v } = match exec i s with
      | .next t => .next { t with ie := v }
      | .fault x => .fault x
      | .refused r => .refused r

/-! ## Addresses -/

/-- 20_memory.md R44: under `R(N)` both addresses are N, whatever BANK is. -/
def Obligations.ImmediateAddressMode : Prop :=
  ∀ (f : Fields) (s : State), f.rmode = .n →
    (readAddress f s = low f s ∧ writeAddress f s = low f s ∧ low f s < 256) ∧
    ∀ v : Nibble, readAddress f { s with bank := v } = low f s ∧
      writeAddress f { s with bank := v } = low f s

/-- 20_memory.md R43, R45, R46: the addresses of the three other modes. That the bank offset applies to the
read by X and the write by Z alike is the spec's decision D29 (10_state.md R12; log 28). -/
def Obligations.OtherAddressModes : Prop :=
  ∀ (f : Fields) (s : State),
    (f.rmode = .xz → readAddress f s = 16 * s.bank.toNat + low f s / 16 ∧
      writeAddress f s = 16 * s.bank.toNat + low f s % 16) ∧
    (f.rmode = .addr → readAddress f s = rightReg f s ∧ writeAddress f s = rightReg f s) ∧
    (f.rmode = .regAddr → readAddress f s = 256 * s.reg.toNat + rightReg f s ∧
      writeAddress f s = 256 * s.reg.toNat + rightReg f s)

/-- 20_memory.md R47 (the spec's decision D15, log 15): an address outside implemented memory: no word with
fields completes on one, and a word whose fields are allowed and whose opcode checks nothing faults. -/
def Obligations.DataAddressOutside : Prop :=
  (∀ (i : Instr) (f : Fields) (s t : State),
    exec i s = .next t → fieldsOf i = some f → AddressOk f s) ∧
  ∀ (i : Instr) (f : Fields) (s : State),
    i ∈ [Instr.nop f, .iX f, .dReg f, .add f, .and f, .xor f, .or f, .mov f, .iostrobe f, .output f,
      .popsp f] →
    FieldsOk i f → ¬ AddressOk f s → exec i s = .fault .dataAddress

/-- 40_datapath_fields.md R93, R96; 20_memory.md R45 (the spec's decisions D9, D12, D14): a word whose field
combination is excluded under its opcode is refused. -/
def Obligations.ExcludedFieldsRefused : Prop :=
  ∀ (i : Instr) (f : Fields) (s : State), fieldsOf i = some f → ¬ FieldsOk i f →
    ∃ r, exec i s = .refused r

/-! ## Multiplication and division -/

/-- 40_datapath_fields.md R93, R103, R106 (the spec's decisions D10, D12; log 19): one multiply step adds A
where C's low bit is 1 and shifts the 17-bit quantity (carry, B, C) right one place. -/
def Obligations.MultiplyStep : Prop :=
  ∀ (s t : State), exec (.nop multiplyFields) s = .next t →
    256 * t.b.toNat + t.c.toNat =
      (256 * (s.b.toNat + (if s.c.toNat % 2 = 1 then s.a.toNat else 0)) + s.c.toNat) / 2 ∧
    t.a = s.a ∧ t.d = s.d ∧ t.cf = s.cf ∧ t.zf = s.zf

/-- 40_datapath_fields.md R99, R102, R105 (the spec's decisions D10, D11; log 19), with DivStep at its default:
one divide step shifts A:B:C left one place; where the 9-bit partial remainder is at least D it is reduced by
D and a 1 enters C, and otherwise a 0 does. (Under another DivStep: RegisterA and RegisterC.) -/
def Obligations.DivideStep : Prop :=
  ∀ (s t : State), s.cfg.divStep = [] → exec (.nop divideFields) s = .next t →
    s.a.toNat < s.d.toNat →
    (let rem := 2 * s.a.toNat + s.b.toNat / 128
     let q := if s.d.toNat ≤ rem then 1 else 0
     t.a.toNat = rem - q * s.d.toNat ∧
       256 * t.b.toNat + t.c.toNat = (256 * s.b.toNat + s.c.toNat) % 32768 * 2 + q) ∧
    t.d = s.d ∧ t.cf = s.cf ∧ t.zf = s.zf

/-- 40_datapath_fields.md R93, R114; 42_control_transfer.md R173 (the spec's decisions D10, D12, D38; log 19,
log 21): WAIT on the multiply step with I = 7 runs eight times and leaves A×C+B in B:C. -/
def Obligations.WaitMultiplies : Prop :=
  ∀ s : State, s.pend = none → s.ind = false → s.i = 7 → AddressOk multiplyFields s →
    ∃ t, repeated (.wait multiplyFields) 8 s = .next t ∧
      256 * t.b.toNat + t.c.toNat = s.a.toNat * s.c.toNat + s.b.toNat ∧
      t.a = s.a ∧ t.d = s.d ∧ t.i = 0 ∧ t.pc = s.pc + 1 ∧ t.cf = s.cf ∧ t.zf = s.zf ∧
      ∀ x, t.dmem.lookup x = s.dmem.lookup x

/-- 40_datapath_fields.md R99, R114; 42_control_transfer.md R173 (the spec's decisions D10, D11, D38; log 19,
log 21), with DivStep at its default: WAIT on the divide step with I = 15 and A = 0 runs sixteen times and
leaves the quotient of B:C by D in B:C and the remainder in A; by D = 0 it leaves all ones and the old C. -/
def Obligations.WaitDivides : Prop :=
  ∀ s : State, s.cfg.divStep = [] → s.pend = none → s.ind = false → s.i = 15 → s.a = 0 →
    AddressOk divideFields s →
    ∃ t, repeated (.wait divideFields) 16 s = .next t ∧
      (s.d ≠ 0 →
        256 * t.b.toNat + t.c.toNat = (256 * s.b.toNat + s.c.toNat) / s.d.toNat ∧
        t.a.toNat = (256 * s.b.toNat + s.c.toNat) % s.d.toNat) ∧
      (s.d = 0 → t.b = 0xFF ∧ t.c = 0xFF ∧ t.a = s.c) ∧
      t.d = s.d ∧ t.i = 0 ∧ t.pc = s.pc + 1 ∧ t.cf = s.cf ∧ t.zf = s.zf ∧
      ∀ x, t.dmem.lookup x = s.dmem.lookup x

/-! ## Where each instruction completes, and what it does -/

/-- 41_opcodes_alu_misc.md R130, R132, R134, R135, R136, R137, R138; 40_datapath_fields.md R113: NOP, D=REG,
ADD, AND, XOR, OR, MOV complete wherever their fields are allowed and their addresses exist, and do what
their fields say and nothing else. -/
def Obligations.AluWordsComplete : Prop :=
  ∀ (i : Instr) (f : Fields) (s : State),
    i ∈ [Instr.nop f, .dReg f, .add f, .and f, .xor f, .or f, .mov f] → FieldsOk i f → AddressOk f s →
      ∃ t, exec i s = .next t ∧ Ordinary i f s t ∧ special t = special s

/-- 41_opcodes_alu_misc.md R131: I=X completes and puts X into I beside its fields' effects. -/
def Obligations.LoadCounterCompletes : Prop :=
  ∀ (f : Fields) (s : State), FieldsOk (.iX f) f → AddressOk f s →
    ∃ t, exec (.iX f) s = .next t ∧ Ordinary (.iX f) f s t ∧
      special t = { special s with i := BitVec.ofNat 4 (low f s / 16) }

/-- 41_opcodes_alu_misc.md R140 (the spec's decision D29): REGBANK without STORE and to an implemented bank
completes and puts X into BANK; with STORE, or to another bank, it is refused. -/
def Obligations.RegbankCompletes : Prop :=
  ∀ (f : Fields) (s : State),
    (f.store = false → low f s / 16 < s.cfg.numBanks → FieldsOk (.regbank f) f → AddressOk f s →
      ∃ t, exec (.regbank f) s = .next t ∧ Datapath (.regbank f) f s t ∧ Falls s t ∧
        special t = { special s with bank := BitVec.ofNat 4 (low f s / 16) }) ∧
    (f.store = true → exec (.regbank f) s = .refused .storeWithRegbank) ∧
    (f.store = false → s.cfg.numBanks ≤ low f s / 16 →
      exec (.regbank f) s = .refused .bankNotImplemented)

/-- 42_control_transfer.md R151, R154, R155, R176: B and JB complete outside a slot: B with one slot, JB at
once, which is on the way through address 1 where the target is 1. -/
def Obligations.JumpsComplete : Prop :=
  ∀ (lsh : Bool) (target : Addr) (s : State), s.pend = none →
    (∃ t, exec (.b lsh target) s = .next t ∧ AddressWord lsh s t ∧ special t = special s ∧
      At t (nextAddr s) (some (.one target)) false false) ∧
    (∃ t, exec (.jb lsh target) s = .next t ∧ AddressWord lsh s t ∧ special t = special s ∧
      At t target.toNat none (decide (target = 1)) false)

/-- 42_control_transfer.md R151, R156, R157, R158, R159, R160, R161, R175: the conditional branches complete
outside a slot, taken with one slot on their condition, and fall through otherwise. -/
def Obligations.ConditionalBranchesComplete : Prop :=
  ∀ (lsh : Bool) (target : Addr) (s : State) (i : Instr) (taken : Bool),
    (i, taken) ∈ [(Instr.bcf0 lsh target, !s.cf), (.bcf1 lsh target, s.cf),
      (.bzf0 lsh target, !s.zf), (.bzf1 lsh target, s.zf),
      (.bc0 lsh target, decide (s.c.toNat % 2 = 0)),
      (.bc1 lsh target, decide (s.c.toNat % 2 = 1))] → s.pend = none →
      ∃ t, exec i s = .next t ∧ AddressWord lsh s t ∧ special t = special s ∧
        (if taken then At t (nextAddr s) (some (.one target)) false false else Falls s t)

/-- 42_control_transfer.md R162, R163, R170 (the spec's decision D18, log 6): CALL and JCALL to another
address than 1 complete outside a slot while the stack is not full: CALL pushes pc + 2 and has one slot,
JCALL pushes pc + JCALL_RET and has none. -/
def Obligations.CallsComplete : Prop :=
  ∀ (lsh : Bool) (target : Addr) (s : State),
    s.pend = none → target ≠ 1 → s.stk.length < s.cfg.stackDepth →
    (∃ t, exec (.call lsh target) s = .next t ∧ AddressWord lsh s t ∧
      special t = { special s with stk := BitVec.ofNat 16 (s.pc.toNat + 2) :: s.stk } ∧
      At t (nextAddr s) (some (.one target)) false false) ∧
    (∃ t, exec (.jcall lsh target) s = .next t ∧ AddressWord lsh s t ∧
      special t = { special s with stk := BitVec.ofNat 16 (s.pc.toNat + s.cfg.jcallRet) :: s.stk } ∧
      At t target.toNat none false false)

/-- 42_control_transfer.md R164, R165, R170 (the spec's decision D18, log 6): CALL0 and CALL1 complete outside
a slot: on their condition as CALL does, and otherwise they push nothing and fall through. -/
def Obligations.ConditionalCallsComplete : Prop :=
  ∀ (lsh : Bool) (target : Addr) (s : State) (i : Instr) (taken : Bool),
    (i, taken) ∈ [(Instr.call0 lsh target, !s.zf), (.call1 lsh target, s.zf)] → s.pend = none →
    (taken = true → target ≠ 1 → s.stk.length < s.cfg.stackDepth →
      ∃ t, exec i s = .next t ∧ AddressWord lsh s t ∧
        special t = { special s with stk := BitVec.ofNat 16 (s.pc.toNat + 2) :: s.stk } ∧
        At t (nextAddr s) (some (.one target)) false false) ∧
    (taken = false →
      ∃ t, exec i s = .next t ∧ AddressWord lsh s t ∧ special t = special s ∧ Falls s t)

/-- 42_control_transfer.md R166, R167; 43_compressed.md R195: RETURN and JRETURN complete outside a slot with
an address other than 1 to return to: they pop it and go there, RETURN after one slot, JRETURN at once; a
return that leaves a compressed instruction ends it. -/
def Obligations.ReturnsComplete : Prop :=
  ∀ (f : Fields) (s : State) (v : Addr) (stk : List Addr),
    s.pend = none → s.stk = v :: stk → v ≠ 1 → AddressOk f s →
    (FieldsOk (.ret f) f →
      ∃ t, exec (.ret f) s = .next t ∧ Datapath (.ret f) f s t ∧ RegLoaded f s t ∧
        special t = { special s with stk := stk, cip := cipLeft s stk.length } ∧
        At t (nextAddr s) (some (.one v)) false false) ∧
    (FieldsOk (.jret f) f →
      ∃ t, exec (.jret f) s = .next t ∧ Datapath (.jret f) f s t ∧
        special t = { special s with stk := stk, cip := cipLeft s stk.length } ∧
        At t v.toNat none false false)

/-- 42_control_transfer.md R168, R169; 43_compressed.md R195: RETURN0 and RETURN1 complete outside a slot: on
their condition as RETURN does, and otherwise they pop nothing and fall through. That a taken one has a slot
is the spec's own inference: the sources do not say (R168; log 29). -/
def Obligations.ConditionalReturnsComplete : Prop :=
  ∀ (f : Fields) (s : State) (i : Instr) (taken : Bool),
    (i, taken) ∈ [(Instr.ret0 f, !s.zf), (.ret1 f, s.zf)] →
    s.pend = none → FieldsOk i f → AddressOk f s →
    (taken = true → ∀ v stk, s.stk = v :: stk → v ≠ 1 →
      ∃ t, exec i s = .next t ∧ Datapath i f s t ∧ RegLoaded f s t ∧
        special t = { special s with stk := stk, cip := cipLeft s stk.length } ∧
        At t (nextAddr s) (some (.one v)) false false) ∧
    (taken = false → ∃ t, exec i s = .next t ∧ Ordinary i f s t ∧ special t = special s)

/-- 42_control_transfer.md R171 (the spec's decision D19): LOOP without COPR completes outside a slot: while I
is not 0 it counts I down and goes to its own address + 2 - REL after two slots, unless that is address 1,
which is refused; with I = 0 it falls through. -/
def Obligations.LoopCompletes : Prop :=
  ∀ (f : Fields) (s : State) (target : Addr),
    target.toNat = (s.pc.toNat + 2 + 65536 - f.low.toNat) % 65536 →
    s.pend = none → f.copr = false → FieldsOk (.loop f) f → AddressOk f s →
    (s.i ≠ 0 → target ≠ 1 →
      ∃ t, exec (.loop f) s = .next t ∧ Datapath (.loop f) f s t ∧ RegLoaded f s t ∧
        special t = { special s with i := s.i - 1 } ∧
        At t (nextAddr s) (some (.two target)) false false) ∧
    (s.i ≠ 0 → target = 1 → exec (.loop f) s = .refused .reachedAddressOne) ∧
    (s.i = 0 →
      ∃ t, exec (.loop f) s = .next t ∧ Ordinary (.loop f) f s t ∧ special t = special s)

/-- 42_control_transfer.md R173 (the spec's decision D38): WAIT completes outside a slot and performs its
fields; while I is not 0 it counts I down and stays where it is, with I = 0 it falls through. -/
def Obligations.WaitCompletes : Prop :=
  ∀ (f : Fields) (s : State), s.pend = none → FieldsOk (.wait f) f → AddressOk f s →
    (s.i ≠ 0 →
      ∃ t, exec (.wait f) s = .next t ∧ Datapath (.wait f) f s t ∧ RegLoaded f s t ∧
        special t = { special s with i := s.i - 1 } ∧ At t s.pc.toNat none false false) ∧
    (s.i = 0 →
      ∃ t, exec (.wait f) s = .next t ∧ Ordinary (.wait f) f s t ∧ special t = special s)

/-- 60_exceptions.md R232, R233 (the spec's decision D23): ENABLE and DISABLE complete outside a handler and
set and clear IE beside their fields' effects; in a handler they are refused. -/
def Obligations.EnableDisableComplete : Prop :=
  ∀ (f : Fields) (s : State),
    (s.ins = false → AddressOk f s →
      (FieldsOk (.enable f) f →
        ∃ t, exec (.enable f) s = .next t ∧ Ordinary (.enable f) f s t ∧
          special t = { special s with ie := true }) ∧
      (FieldsOk (.disable f) f →
        ∃ t, exec (.disable f) s = .next t ∧ Ordinary (.disable f) f s t ∧
          special t = { special s with ie := false })) ∧
    (s.ins = true →
      exec (.enable f) s = .refused .enableInHandler ∧
      exec (.disable f) s = .refused .disableInHandler)

/-- 60_exceptions.md R240, R241 (the spec's decision D23; log 26): RETURNI in a handler, outside a slot, with the
bare NOP after it in implemented program memory: with line 0 at 0 it returns to IRA with one instruction of
grace; with line 0 at 1 it does not return: the NOP is its slot, and control then goes to address 2, with IRA
as it was. Outside a handler, in a slot, and without that NOP it is refused; that there is none past the end
of program memory is the model's choice (log 26). -/
def Obligations.ReturniCompletes : Prop :=
  ∀ (f : Fields) (s : State),
    (s.ins = true → s.pend = none → nextAddr s < s.cfg.pmemWords →
      s.pmem.lookup (nextAddr s) = some 0 → FieldsOk (.returni f) f → AddressOk f s →
      (s.irq0 = false →
        ∃ t, exec (.returni f) s = .next t ∧ Datapath (.returni f) f s t ∧ t.pc = s.ira ∧
          t.pend = none ∧ t.ind = false ∧ t.gr = true ∧ t.seq = false ∧
          special t = { special s with ins := false }) ∧
      (s.irq0 = true →
        ∃ t, exec (.returni f) s = .next t ∧ Datapath (.returni f) f s t ∧
          At t (nextAddr s) (some (.one 2)) false false ∧ special t = special s)) ∧
    (s.ins = false → exec (.returni f) s = .refused .returniOutsideHandler) ∧
    (s.ins = true → s.pend ≠ none → exec (.returni f) s = .refused .transferInSlot) ∧
    (s.ins = true → s.pend = none →
      s.cfg.pmemWords ≤ nextAddr s ∨ s.pmem.lookup (nextAddr s) ≠ some 0 →
      exec (.returni f) s = .refused .noNopAfterReturni)

/-- 43_compressed.md R197: POPSP completes on a stack that holds an entry, in a slot too: it drops the entry,
clears HL, and no compressed instruction is in progress. -/
def Obligations.PopspCompletes : Prop :=
  ∀ (f : Fields) (s : State) (v : Addr) (stk : List Addr),
    s.stk = v :: stk → FieldsOk (.popsp f) f → AddressOk f s →
    ∃ t, exec (.popsp f) s = .next t ∧ Ordinary (.popsp f) f s t ∧
      special t = { special s with stk := stk, hl := false, cip := none }

/-- 43_compressed.md R191, R192, R193, R194, R198 (the spec's decision D22): the two halves of a compressed
word start their routines at 8k + 4, outside slots, handlers and other compressed instructions, while the
stack is not full: the upper half returns to its own word with HL = 1, the lower half past it with HL = 0.
Everywhere else they are refused. -/
def Obligations.CompressedHalvesComplete : Prop :=
  ∀ (k : BitVec 7) (p : Byte) (s : State),
    (s.pend = none → s.ind = false → s.ins = false → s.cip = none →
      s.stk.length < s.cfg.stackDepth →
      (∃ t, exec (.compressedUpper k p) s = .next t ∧ Untouched s t ∧
        At t (8 * k.toNat + 4) none false false ∧
        special t = { special s with co := p, stk := s.pc :: s.stk, hl := true,
                                     cip := some (s.stk.length + 1) }) ∧
      (∃ t, exec (.compressedLower k p) s = .next t ∧ Untouched s t ∧
        At t (8 * k.toNat + 4) none false false ∧
        special t = { special s with co := p, stk := BitVec.ofNat 16 (s.pc.toNat + 1) :: s.stk,
                                     hl := false, cip := some (s.stk.length + 1) })) ∧
    ∀ i, i = .compressedUpper k p ∨ i = .compressedLower k p →
      (s.pend ≠ none ∨ s.ind = true → exec i s = .refused .compressedInSlot) ∧
      (s.pend = none → s.ind = false → s.ins = true → exec i s = .refused .compressedInHandler) ∧
      (s.pend = none → s.ind = false → s.ins = false → s.cip ≠ none →
        exec i s = .refused .compressedNested) ∧
      (s.pend = none → s.ind = false → s.ins = false → s.cip = none →
        s.cfg.stackDepth ≤ s.stk.length → exec i s = .refused .stackOverflow)

/-- 44_io_opcodes.md R205, R206, R207, R209: IOSTROBE and OUTPUT complete and emit their event with the old B
and the old D, beside their fields' effects. -/
def Obligations.StrobeAndOutputComplete : Prop :=
  ∀ (f : Fields) (s : State), AddressOk f s →
    (FieldsOk (.iostrobe f) f →
      ∃ t, exec (.iostrobe f) s = .next t ∧ Ordinary (.iostrobe f) f s t ∧
        special t = { special s with trace := s.trace ++ [.ioStrobe s.b s.d] }) ∧
    (FieldsOk (.output f) f →
      ∃ t, exec (.output f) s = .next t ∧ Ordinary (.output f) f s t ∧
        special t = { special s with trace := s.trace ++ [.writeStrobe s.b s.d] })

/-- 44_io_opcodes.md R210 (the spec's decision D39, log 5): OUTPUTK completes with an immediate of 0 to 15,
whose byte it emits, and with a greater one as OUTPUTK_IMM says: refused, the whole byte, or its low four
bits. -/
def Obligations.OutputkCompletes : Prop :=
  ∀ (f : Fields) (s : State), FieldsOk (.outputk f) f → AddressOk f s →
    (low f s < 16 ∨ s.cfg.outputkImm ≠ .refuse →
      ∃ t v, exec (.outputk f) s = .next t ∧ Ordinary (.outputk f) f s t ∧
        special t = { special s with trace := s.trace ++ [.writeStrobeK s.b v] } ∧
        (low f s < 16 ∨ s.cfg.outputkImm = .n8 → v.toNat = low f s) ∧
        (s.cfg.outputkImm = .z4 → v.toNat = low f s % 16)) ∧
    (16 ≤ low f s → s.cfg.outputkImm = .refuse → exec (.outputk f) s = .refused .outputkImmediate)

/-- 44_io_opcodes.md R205, R211, R212, R214, R215 (the spec's decisions D24, D28): INPUT and INPUTOUTPUT
complete with a selector of 0 to 4 and, for 1 and 2, a return stack that holds an entry: ANS is the selected
byte, the event carries it where the selector is 0, and then the environment's answer is used up; other
selectors are refused, and so are 1 and 2 on an empty stack. -/
def Obligations.InputsComplete : Prop :=
  ∀ (f : Fields) (s : State) (z : Nat), z = low f s % 16 →
    (z ≤ 4 → (z = 1 ∨ z = 2 → s.stk ≠ []) → AddressOk f s →
      (FieldsOk (.input f) f →
        ∃ t v, exec (.input f) s = .next t ∧ Ordinary (.input f) f s t ∧ v.toNat = inputByte z s ∧
          special t = { special s with
            portIn := if z = 0 then s.portIn.tail else s.portIn
            trace := s.trace ++ [.readStrobe s.b s.d (if z = 0 then some v else none)] }) ∧
      (FieldsOk (.inputoutput f) f →
        ∃ t v, exec (.inputoutput f) s = .next t ∧ Ordinary (.inputoutput f) f s t ∧
          v.toNat = inputByte z s ∧
          special t = { special s with
            portIn := if z = 0 then s.portIn.tail else s.portIn
            trace := s.trace ++ [.readWriteStrobe s.b s.d (if z = 0 then some v else none)] })) ∧
    (5 ≤ z → exec (.input f) s = .refused .inputSelector ∧
      exec (.inputoutput f) s = .refused .inputSelector) ∧
    (z = 1 ∨ z = 2 → s.stk = [] → exec (.input f) s = .refused .stackUnderflow ∧
      exec (.inputoutput f) s = .refused .stackUnderflow)

/-! ## Where an instruction stops -/

/-- 41_opcodes_alu_misc.md R133 (the spec's decision D30): the undefined opcodes are refused. -/
def Obligations.UndefinedOpcodesRefused : Prop :=
  ∀ (f : Fields) (s : State), exec (.undefined15 f) s = .refused .undefinedOpcode ∧
    exec (.undefined31 f) s = .refused .undefinedOpcode

/-- 42_control_transfer.md R153; 43_compressed.md R192, R193 (the spec's decision D17): in a delay slot no
transfer, no LOOP, WAIT or RETURNI and no compressed half has a next state, taken or not; and in a slot
every word without one goes on as the pending transfer says. -/
def Obligations.DelaySlots : Prop :=
  ∀ (i : Instr) (s : State) (p : Delayed), s.pend = some p →
    (notInSlot i = true → ∃ r, exec i s = .refused r) ∧
    (∀ t, exec i s = .next t → notInSlot i = false ∧ Falls s t)

/-- 10_state.md R24; 42_control_transfer.md R162, R163, R164, R165, R166, R167, R168, R169, R176 (the spec's
decisions D20, D21): a call that is made on a full stack, a return that is made, or POPSP, on an empty one, and
a call to or a return to address 1 that is made have no next state. -/
def Obligations.CallAndReturnStops : Prop :=
  ∀ (lsh : Bool) (target : Addr) (f : Fields) (s : State), s.pend = none →
    (target ≠ 1 → s.cfg.stackDepth ≤ s.stk.length →
      exec (.call lsh target) s = .refused .stackOverflow ∧
      exec (.jcall lsh target) s = .refused .stackOverflow ∧
      (s.zf = false → exec (.call0 lsh target) s = .refused .stackOverflow) ∧
      (s.zf = true → exec (.call1 lsh target) s = .refused .stackOverflow)) ∧
    (target = 1 →
      exec (.call lsh target) s = .refused .callToAddressOne ∧
      exec (.jcall lsh target) s = .refused .callToAddressOne ∧
      (s.zf = false → exec (.call0 lsh target) s = .refused .callToAddressOne) ∧
      (s.zf = true → exec (.call1 lsh target) s = .refused .callToAddressOne)) ∧
    (∀ i, i ∈ [Instr.ret f, .jret f, .popsp f] ++
        (if s.zf then [Instr.ret1 f] else [Instr.ret0 f]) →
      FieldsOk i f → AddressOk f s → s.stk = [] → exec i s = .refused .stackUnderflow) ∧
    (∀ i stk, i ∈ [Instr.ret f, .jret f] ++ (if s.zf then [Instr.ret1 f] else [Instr.ret0 f]) →
      FieldsOk i f → AddressOk f s → s.stk = 1 :: stk → exec i s = .refused .reachedAddressOne)

/-! ## Interrupts -/

/-- 60_exceptions.md R235, R236, R239 (the spec's decisions D23, D24): with a request present and allowed and
no transfer in flight, the step is the entry: IRA takes pc, IRAV its readable copy after a fall-through and
is unknown otherwise, INS is set, control goes to address 2 where line 0 is 1 and to 3 otherwise, and
nothing else but REG changes; then the lines move on. -/
def Obligations.InterruptEntry : Prop :=
  ∀ s : State, Accept s → s.pend = none → s.ind = false →
    ∃ t, step s = .next t ∧ Untouched s t ∧
      At t (if s.irq0 then 2 else 3) none false false ∧
      special t = { special s with
        ira := s.pc
        irav := if s.seq then some (BitVec.ofNat 16 (s.pc.toNat + s.cfg.iraReadOffset)) else none
        ins := true
        lines := match s.irqNext with
          | [] => (s.irq0, s.irq1, [])
          | (l0, l1) :: rest => (l0, l1, rest) }

/-- 60_exceptions.md R235 (the spec's decision D23): a request inside a transfer refuses the run where
IRQ_IN_SLOT is `refuse` (log 4). Where it is `defer` the step is that of the instruction at pc, or the stop of
its fetch, after which the lines move on; and where the state it leads to still has a request that is allowed,
and no transfer in flight, the step after it is the entry. -/
def Obligations.RequestInsideTransfer : Prop :=
  ∀ s : State, Accept s → s.pend ≠ none ∨ s.ind = true →
    (s.cfg.irqInSlot = .refuse → step s = .refused .irqInTransfer) ∧
    (s.cfg.irqInSlot = .defer →
      (step s = match fetchInstr s with
        | .next i =>
          match exec i s with
          | .next t => .next (nextLines t)
          | .fault x => .fault x
          | .refused r => .refused r
        | .fault x => .fault x
        | .refused r => .refused r) ∧
      ∀ t, step s = .next t → Accept t → t.pend = none → t.ind = false →
        ∃ u, step t = .next u ∧ u.ira = t.pc ∧ u.ins = true ∧ u.pc = if t.irq0 then 2 else 3)

/-- 60_exceptions.md R242 (the spec's decision D23): after a RETURNI that returned, whatever the lines are
then, the next step executes the instruction at IRA; and the step after it enters an interrupt, saving that
step's pc, where a request is then present, enabled, and outside a transfer. -/
def Obligations.OneInstructionAfterReturni : Prop :=
  ∀ (f : Fields) (s t t' u : State) (l0 l1 : Bool) (rest : List (Bool × Bool)),
    exec (.returni f) s = .next t → s.irq0 = false →
    t' = { t with irq0 := l0, irq1 := l1, irqNext := rest } → step t' = .next u →
      (∃ i v, t'.pc = s.ira ∧ fetchInstr t' = .next i ∧ exec i t' = .next v ∧ u = nextLines v) ∧
      ((u.irq0 = true ∨ u.irq1 = true) → u.ie = true → u.pend = none → u.ind = false →
        ∃ v, step u = .next v ∧ v.ira = u.pc ∧ v.ins = true ∧
          v.pc = if u.irq0 then 2 else 3)

/-! ## Indirect jumps and the end of a run -/

/-- 42_control_transfer.md R176 (the spec's decision D20, log 16): from a JB to address 1, with the bare NOP
there and no interrupt accepted, two steps lead to the address in A and B, A the high byte. -/
def Obligations.IndirectJump : Prop :=
  ∀ (lsh : Bool) (s t : State), exec (.jb lsh 1) s = .next t →
    1 < t.cfg.pmemWords → t.pmem.lookup 1 = some 0 → ¬ Accept t →
    AddressOk Fields.bare t →
      ∃ u, step t = .next u ∧ u.pc.toNat = 256 * s.a.toNat + t.b.toNat ∧ u.ind = false ∧
        u.pend = none ∧ u.a = t.a ∧ u.b = t.b ∧ u.c = t.c ∧ u.d = t.d

/-- 70_reset_and_hazards.md R270 (the spec's decision D37, log 27): a run that has ended normally spins: with no
request present, the next step changes no more than REG and the model's own bookkeeping, and the run has
still ended. -/
def Obligations.EndedRunSpins : Prop :=
  ∀ (halt : Addr) (s : State), EndsNormally halt s → halt ≠ 1 → halt.toNat < s.cfg.pmemWords →
    s.irq0 = false → s.irq1 = false → s.irqNext = [] →
      ∃ t, step s = .next t ∧ EndsNormally halt t ∧ Untouched s t ∧ special t = special s

/-- 70_reset_and_hazards.md R272: the derived cycle count: 2 for JB, JCALL, JRETURN and the start of a
compressed half, 1 for every other instruction that has a stated count. -/
def Obligations.CycleCounts : Prop :=
  ∀ (i : Instr) (s t : State), exec i s = .next t → s.ind = false →
    ((∃ l g, i = .jb l g ∨ i = .jcall l g) ∨ (∃ f, i = .jret f) ∨
      (∃ k p, i = .compressedUpper k p ∨ i = .compressedLower k p) → cycles i s = some 2) ∧
    ((∀ l g, i ≠ .jb l g ∧ i ≠ .jcall l g) → (∀ f, i ≠ .jret f ∧ i ≠ .returni f) →
      (∀ k p, i ≠ .compressedUpper k p ∧ i ≠ .compressedLower k p) → cycles i s = some 1)
end

