-- ==== Sys2Proof/Laws/Encoding.lean ====
section
/-!
SUPPORT. The bits of an encoded word, one lemma for each of the encoder's two forms; and, for each
instruction, that its word has the fixed bits of its row of spec/opcode_table.json.
-/

namespace Sys2Proof

/-- Every bit of a plain or LOOP word (30_encoding.md R61). -/
theorem encodeFields_getLsbD (opc : BitVec 5) (f : Fields) (i : Nat) (hi : i < 32) :
    (encodeFields opc f).getLsbD i =
      if i < 8 then f.low.getLsbD i
      else if i < 9 then f.one else if i < 10 then f.cfin
      else if i < 12 then f.addl.bits.getLsbD (i - 10)
      else if i < 14 then f.addr.bits.getLsbD (i - 12)
      else if i < 15 then f.inv else if i < 16 then f.mul
      else if i < 18 then f.rmode.bits.getLsbD (i - 16)
      else if i < 19 then f.store else if i < 20 then f.dans
      else if i < 24 then f.bc.bits.getLsbD (i - 20)
      else if i < 25 then f.aans
      else if i < 30 then opc.getLsbD (i - 25)
      else if i < 31 then f.copr else false := by
  refine (BitVec.getLsbD_append ..).trans ?_
  simp only [BitVec.getLsbD_append, bit]
  interval_cases i <;> simp

/-- Every bit of an address word (30_encoding.md R64, R69). -/
theorem encodeAddress_getLsbD (vb : VariantBit) (opc : BitVec 5) (v lsh : Bool) (t : Addr) (i : Nat)
    (hi : i < 32) :
    (encodeAddress vb opc v lsh t).getLsbD i =
      if i < 16 then t.getLsbD i
      else if i = vb.pos then v else if i < 23 then false else if i < 24 then lsh
      else if i < 25 then false else if i < 30 then opc.getLsbD (i - 25) else false := by
  have h : (0#2 ++ opc ++ 0#1 ++ bit lsh ++ 0#7 ++ t : Word).getLsbD i =
      if i < 16 then t.getLsbD i else if i < 23 then false else if i < 24 then lsh
      else if i < 25 then false else if i < 30 then opc.getLsbD (i - 25) else false := by
    refine (BitVec.getLsbD_append ..).trans ?_
    simp only [BitVec.getLsbD_append, bit]
    interval_cases i <;> simp
  rw [encodeAddress, BitVec.getLsbD_or, h]
  cases vb <;> simp only [VariantBit.pos] <;> interval_cases i <;> simp

/-- The fixed bits of a word with the opcode `opc`: bit 31 and the opcode (30_encoding.md R61). -/
theorem encodeFields_opcode (opc : BitVec 5) (f : Fields) :
    encodeFields opc f &&& 0xBE000000#32 = opc.setWidth 32 <<< 25 := by
  refine BitVec.eq_of_getLsbD_eq fun i hi => ?_
  rw [BitVec.getLsbD_and, encodeFields_getLsbD opc f i hi]
  interval_cases i <;> simp

/-- The same with COPR = 0, bit 30 among them (30_encoding.md R65). -/
theorem encodeFields_opcode_copr (opc : BitVec 5) (f : Fields) (h : f.copr = false) :
    encodeFields opc f &&& 0xFE000000#32 = opc.setWidth 32 <<< 25 := by
  refine BitVec.eq_of_getLsbD_eq fun i hi => ?_
  rw [BitVec.getLsbD_and, encodeFields_getLsbD opc f i hi]
  interval_cases i <;> simp [h]

/-- The fixed bits of an address word under the table's VARIANT_BIT: bit 31, the opcode and the variant bit
(30_encoding.md R64, R69). -/
theorem encodeAddress_opcode (opc : BitVec 5) (v lsh : Bool) (t : Addr) :
    encodeAddress .bit16 opc v lsh t &&& 0xBE010000#32 =
      opc.setWidth 32 <<< 25 ||| (bit v).setWidth 32 <<< 16 := by
  refine BitVec.eq_of_getLsbD_eq fun i hi => ?_
  rw [BitVec.getLsbD_and, encodeAddress_getLsbD .bit16 opc v lsh t i hi, VariantBit.pos]
  interval_cases i <;> simp

/-- Every bit of the word of an upper half (30_encoding.md R67). -/
theorem compressedUpper_getLsbD (vb : VariantBit) (k : BitVec 7) (p : Byte) (i : Nat) (hi : i < 32) :
    (encode vb (.compressedUpper k p)).getLsbD i =
      if i < 16 then false else if i < 24 then p.getLsbD (i - 16)
      else if i < 31 then k.getLsbD (i - 24) else true := by
  refine (BitVec.getLsbD_append ..).trans ?_
  simp only [BitVec.getLsbD_append]
  interval_cases i <;> simp

/-- Every bit of the word of a lower half (30_encoding.md R67). -/
theorem compressedLower_getLsbD (vb : VariantBit) (k : BitVec 7) (p : Byte) (i : Nat) (hi : i < 32) :
    (encode vb (.compressedLower k p)).getLsbD i =
      if i < 8 then p.getLsbD i else if i < 15 then k.getLsbD (i - 8)
      else if i < 16 then true else if i < 31 then false else true := by
  refine (BitVec.getLsbD_append ..).trans ?_
  simp only [BitVec.getLsbD_append]
  interval_cases i <;> simp

end Sys2Proof
end

