-- ==== Sys2Proof/Laws/Memory.lean ====
section
/-!
SUPPORT. The laws of a memory: what reads and writes do to one another, that every operation keeps
the canonical form, and that in canonical form equal contents are equal memories.
-/

namespace Sys2Proof.Machine

variable {w : Nat}

@[simp] theorem lookup_nil (a : Nat) : Memory.lookup ([] : Memory w) a = none := rfl

/-- A read after a write to the same address gives the value written. -/
@[simp] theorem lookup_store_same (m : Memory w) (a : Nat) (v : BitVec w) :
    (m.store a v).lookup a = some v := by
  induction m with
  | nil => simp [Memory.store, Memory.lookup]
  | cons p m ih =>
    obtain ⟨k, u⟩ := p
    unfold Memory.store
    split
    · simp [Memory.lookup]
    · split
      · simp [Memory.lookup]
      · simp [Memory.lookup, *]

/-- A write leaves every other address alone. -/
theorem lookup_store_other (m : Memory w) {a x : Nat} (v : BitVec w) (h : x ≠ a) :
    (m.store a v).lookup x = m.lookup x := by
  induction m with
  | nil => simp [Memory.store, Memory.lookup, h]
  | cons p m ih =>
    obtain ⟨k, u⟩ := p
    unfold Memory.store
    split
    · simp [Memory.lookup, h]
    · split
      · next hk => subst hk; simp [Memory.lookup, h]
      · simp [Memory.lookup, ih]

/-- Reading one address after a write, both cases at once. -/
theorem lookup_store (m : Memory w) (a x : Nat) (v : BitVec w) :
    (m.store a v).lookup x = if x = a then some v else m.lookup x := by
  split
  · next h => subst h; simp
  · next h => exact lookup_store_other m v h

/-- A lower starting bound is a weaker condition. -/
theorem risesFrom_mono {lo lo' : Nat} (h : lo' ≤ lo) :
    ∀ m : Memory w, m.risesFrom lo = true → m.risesFrom lo' = true
  | [], _ => rfl
  | (k, v) :: m, hm => by
    simp only [Memory.risesFrom, Bool.and_eq_true, decide_eq_true_eq] at hm ⊢
    exact ⟨by omega, hm.2⟩

/-- A write keeps the rising order. -/
theorem risesFrom_store {lo a : Nat} (v : BitVec w) (ha : lo ≤ a) :
    ∀ m : Memory w, m.risesFrom lo = true → (m.store a v).risesFrom lo = true := by
  intro m
  induction m generalizing lo with
  | nil => intro _; simp [Memory.store, Memory.risesFrom, ha]
  | cons p m ih =>
    obtain ⟨k, u⟩ := p
    intro hm
    simp only [Memory.risesFrom, Bool.and_eq_true, decide_eq_true_eq] at hm
    unfold Memory.store
    split
    · next h => simp [Memory.risesFrom, ha, hm.2, Nat.succ_le_of_lt h]
    · split
      · next h => subst h; simp [Memory.risesFrom, ha, hm.2]
      · next h h' =>
        simp only [Memory.risesFrom, Bool.and_eq_true, decide_eq_true_eq]
        exact ⟨hm.1, ih (by omega) hm.2⟩

/-- Every write keeps the canonical form. -/
theorem wf_store {m : Memory w} (a : Nat) (v : BitVec w) (h : m.wf = true) :
    (m.store a v).wf = true :=
  risesFrom_store v (Nat.zero_le a) m h

/-- A write below a bound keeps every listed address below it. -/
theorem below_store {n a : Nat} (v : BitVec w) (ha : a < n) :
    ∀ m : Memory w, m.below n = true → (m.store a v).below n = true := by
  intro m
  induction m with
  | nil => intro _; simp [Memory.store, Memory.below, ha]
  | cons p m ih =>
    obtain ⟨k, u⟩ := p
    intro hm
    simp only [Memory.below, List.all_cons, Bool.and_eq_true, decide_eq_true_eq] at hm ih
    unfold Memory.store
    split
    · simp [Memory.below, ha, hm.1]; simpa using hm.2
    · split
      · simp [Memory.below, ha]; simpa using hm.2
      · simp only [Memory.below, List.all_cons, Bool.and_eq_true, decide_eq_true_eq]
        exact ⟨hm.1, ih hm.2⟩

/-- Below its first address a rising memory holds nothing. -/
theorem lookup_of_lt {lo x : Nat} (hx : x < lo) :
    ∀ m : Memory w, m.risesFrom lo = true → m.lookup x = none
  | [], _ => rfl
  | (k, v) :: m, hm => by
    simp only [Memory.risesFrom, Bool.and_eq_true, decide_eq_true_eq] at hm
    have : x ≠ k := by omega
    simp only [Memory.lookup, this, if_false]
    exact lookup_of_lt (by omega) m hm.2

/-- In canonical form, memories with the same contents are the same data. -/
theorem ext_of_risesFrom {lo : Nat} :
    ∀ m m' : Memory w, m.risesFrom lo = true → m'.risesFrom lo = true →
      (∀ x, m.lookup x = m'.lookup x) → m = m' := by
  intro m
  induction m generalizing lo with
  | nil =>
    intro m' _ _ h
    cases m' with
    | nil => rfl
    | cons p m' => have := h p.1; simp [Memory.lookup] at this
  | cons p m ih =>
    intro m' hm hm' h
    cases m' with
    | nil => have := h p.1; simp [Memory.lookup] at this
    | cons p' m' =>
      obtain ⟨k, v⟩ := p
      obtain ⟨k', v'⟩ := p'
      simp only [Memory.risesFrom, Bool.and_eq_true, decide_eq_true_eq] at hm hm'
      have hk : k = k' := by
        by_contra hne
        rcases Nat.lt_or_gt_of_ne hne with hlt | hlt
        · have := h k
          simp only [Memory.lookup, hne, if_true, if_false] at this
          rw [lookup_of_lt (by omega) m' hm'.2] at this
          cases this
        · have := h k'
          simp only [Memory.lookup, Ne.symm hne, if_true, if_false] at this
          rw [lookup_of_lt (by omega) m hm.2] at this
          cases this
      subst hk
      have hv : v = v' := by simpa [Memory.lookup] using h k
      subst hv
      have : m = m' := by
        refine ih m' hm.2 hm'.2 fun x => ?_
        by_cases hx : x = k
        · subst hx
          rw [lookup_of_lt (Nat.lt_succ_self _) m hm.2, lookup_of_lt (Nat.lt_succ_self _) m' hm'.2]
        · simpa [Memory.lookup, hx] using h x
      rw [this]

/-- Equal contents are equal memories, in canonical form. -/
theorem wf_ext {m m' : Memory w} (hm : m.wf = true) (hm' : m'.wf = true)
    (h : ∀ x, m.lookup x = m'.lookup x) : m = m' :=
  ext_of_risesFrom m m' hm hm' h

/-- A byte that is known is read as it is. -/
theorem readByte_known {s : State} {a : Nat} {v : Byte} (h : s.dmem.lookup a = some v) :
    readByte s a = v := by
  simp [readByte, h]

end Sys2Proof.Machine
end

