-- ==== Sys2Proof/Laws/State.lean ====
section
/-!
SUPPORT. One lemma for each field of the state and each update of it: what the field is after the
update. With these a proof about a state need not unfold a record update.
-/

namespace Sys2Proof.Machine

/-! ### datapath -/

@[simp] theorem datapath_a (k : AluOp) (f : Fields) (s : State) : (datapath k f s).a = nextA k f s := rfl
@[simp] theorem datapath_b (k : AluOp) (f : Fields) (s : State) : (datapath k f s).b = nextB k f s := rfl
@[simp] theorem datapath_c (k : AluOp) (f : Fields) (s : State) : (datapath k f s).c = nextC k f s := rfl
@[simp] theorem datapath_d (k : AluOp) (f : Fields) (s : State) : (datapath k f s).d = nextD k f s := rfl
@[simp] theorem datapath_cf (k : AluOp) (f : Fields) (s : State) : (datapath k f s).cf = nextCf k f s := rfl
@[simp] theorem datapath_zf (k : AluOp) (f : Fields) (s : State) : (datapath k f s).zf = nextZf k f s := rfl
@[simp] theorem datapath_i (k : AluOp) (f : Fields) (s : State) : (datapath k f s).i = s.i := rfl
@[simp] theorem datapath_pc (k : AluOp) (f : Fields) (s : State) : (datapath k f s).pc = s.pc := rfl
@[simp] theorem datapath_pend (k : AluOp) (f : Fields) (s : State) : (datapath k f s).pend = s.pend := rfl
@[simp] theorem datapath_ind (k : AluOp) (f : Fields) (s : State) : (datapath k f s).ind = s.ind := rfl
@[simp] theorem datapath_reg (k : AluOp) (f : Fields) (s : State) : (datapath k f s).reg = nextReg f s := rfl
@[simp] theorem datapath_co (k : AluOp) (f : Fields) (s : State) : (datapath k f s).co = s.co := rfl
@[simp] theorem datapath_hl (k : AluOp) (f : Fields) (s : State) : (datapath k f s).hl = s.hl := rfl
@[simp] theorem datapath_stk (k : AluOp) (f : Fields) (s : State) : (datapath k f s).stk = s.stk := rfl
@[simp] theorem datapath_bank (k : AluOp) (f : Fields) (s : State) : (datapath k f s).bank = s.bank := rfl
@[simp] theorem datapath_ie (k : AluOp) (f : Fields) (s : State) : (datapath k f s).ie = s.ie := rfl
@[simp] theorem datapath_ins (k : AluOp) (f : Fields) (s : State) : (datapath k f s).ins = s.ins := rfl
@[simp] theorem datapath_gr (k : AluOp) (f : Fields) (s : State) : (datapath k f s).gr = s.gr := rfl
@[simp] theorem datapath_seq (k : AluOp) (f : Fields) (s : State) : (datapath k f s).seq = s.seq := rfl
@[simp] theorem datapath_ira (k : AluOp) (f : Fields) (s : State) : (datapath k f s).ira = s.ira := rfl
@[simp] theorem datapath_irav (k : AluOp) (f : Fields) (s : State) : (datapath k f s).irav = s.irav := rfl
@[simp] theorem datapath_cip (k : AluOp) (f : Fields) (s : State) : (datapath k f s).cip = s.cip := rfl
@[simp] theorem datapath_dmem (k : AluOp) (f : Fields) (s : State) : (datapath k f s).dmem = nextDmem k f s := rfl
@[simp] theorem datapath_pmem (k : AluOp) (f : Fields) (s : State) : (datapath k f s).pmem = s.pmem := rfl
@[simp] theorem datapath_cfg (k : AluOp) (f : Fields) (s : State) : (datapath k f s).cfg = s.cfg := rfl
@[simp] theorem datapath_irq0 (k : AluOp) (f : Fields) (s : State) : (datapath k f s).irq0 = s.irq0 := rfl
@[simp] theorem datapath_irq1 (k : AluOp) (f : Fields) (s : State) : (datapath k f s).irq1 = s.irq1 := rfl
@[simp] theorem datapath_irqNext (k : AluOp) (f : Fields) (s : State) : (datapath k f s).irqNext = s.irqNext := rfl
@[simp] theorem datapath_portIn (k : AluOp) (f : Fields) (s : State) : (datapath k f s).portIn = s.portIn := rfl
@[simp] theorem datapath_trace (k : AluOp) (f : Fields) (s : State) : (datapath k f s).trace = s.trace := rfl
@[simp] theorem datapath_draws (k : AluOp) (f : Fields) (s : State) : (datapath k f s).draws = s.draws := rfl

/-! ### addressDatapath -/

@[simp] theorem addressDatapath_a (lsh : Bool) (s : State) : (addressDatapath lsh s).a = s.a := rfl
@[simp] theorem addressDatapath_b (lsh : Bool) (s : State) : (addressDatapath lsh s).b = if lsh then s.b.extractLsb' 0 7 ++ s.c.extractLsb' 7 1 else s.b := rfl
@[simp] theorem addressDatapath_c (lsh : Bool) (s : State) : (addressDatapath lsh s).c = s.c := rfl
@[simp] theorem addressDatapath_d (lsh : Bool) (s : State) : (addressDatapath lsh s).d = s.d := rfl
@[simp] theorem addressDatapath_cf (lsh : Bool) (s : State) : (addressDatapath lsh s).cf = s.cf := rfl
@[simp] theorem addressDatapath_zf (lsh : Bool) (s : State) : (addressDatapath lsh s).zf = s.zf := rfl
@[simp] theorem addressDatapath_i (lsh : Bool) (s : State) : (addressDatapath lsh s).i = s.i := rfl
@[simp] theorem addressDatapath_pc (lsh : Bool) (s : State) : (addressDatapath lsh s).pc = s.pc := rfl
@[simp] theorem addressDatapath_pend (lsh : Bool) (s : State) : (addressDatapath lsh s).pend = s.pend := rfl
@[simp] theorem addressDatapath_ind (lsh : Bool) (s : State) : (addressDatapath lsh s).ind = s.ind := rfl
@[simp] theorem addressDatapath_reg (lsh : Bool) (s : State) : (addressDatapath lsh s).reg = Config.any8 s.draws .reg := rfl
@[simp] theorem addressDatapath_co (lsh : Bool) (s : State) : (addressDatapath lsh s).co = s.co := rfl
@[simp] theorem addressDatapath_hl (lsh : Bool) (s : State) : (addressDatapath lsh s).hl = s.hl := rfl
@[simp] theorem addressDatapath_stk (lsh : Bool) (s : State) : (addressDatapath lsh s).stk = s.stk := rfl
@[simp] theorem addressDatapath_bank (lsh : Bool) (s : State) : (addressDatapath lsh s).bank = s.bank := rfl
@[simp] theorem addressDatapath_ie (lsh : Bool) (s : State) : (addressDatapath lsh s).ie = s.ie := rfl
@[simp] theorem addressDatapath_ins (lsh : Bool) (s : State) : (addressDatapath lsh s).ins = s.ins := rfl
@[simp] theorem addressDatapath_gr (lsh : Bool) (s : State) : (addressDatapath lsh s).gr = s.gr := rfl
@[simp] theorem addressDatapath_seq (lsh : Bool) (s : State) : (addressDatapath lsh s).seq = s.seq := rfl
@[simp] theorem addressDatapath_ira (lsh : Bool) (s : State) : (addressDatapath lsh s).ira = s.ira := rfl
@[simp] theorem addressDatapath_irav (lsh : Bool) (s : State) : (addressDatapath lsh s).irav = s.irav := rfl
@[simp] theorem addressDatapath_cip (lsh : Bool) (s : State) : (addressDatapath lsh s).cip = s.cip := rfl
@[simp] theorem addressDatapath_dmem (lsh : Bool) (s : State) : (addressDatapath lsh s).dmem = s.dmem := rfl
@[simp] theorem addressDatapath_pmem (lsh : Bool) (s : State) : (addressDatapath lsh s).pmem = s.pmem := rfl
@[simp] theorem addressDatapath_cfg (lsh : Bool) (s : State) : (addressDatapath lsh s).cfg = s.cfg := rfl
@[simp] theorem addressDatapath_irq0 (lsh : Bool) (s : State) : (addressDatapath lsh s).irq0 = s.irq0 := rfl
@[simp] theorem addressDatapath_irq1 (lsh : Bool) (s : State) : (addressDatapath lsh s).irq1 = s.irq1 := rfl
@[simp] theorem addressDatapath_irqNext (lsh : Bool) (s : State) : (addressDatapath lsh s).irqNext = s.irqNext := rfl
@[simp] theorem addressDatapath_portIn (lsh : Bool) (s : State) : (addressDatapath lsh s).portIn = s.portIn := rfl
@[simp] theorem addressDatapath_trace (lsh : Bool) (s : State) : (addressDatapath lsh s).trace = s.trace := rfl
@[simp] theorem addressDatapath_draws (lsh : Bool) (s : State) : (addressDatapath lsh s).draws = s.draws := rfl

/-! ### regUnknown -/

@[simp] theorem regUnknown_a (s : State) : (regUnknown s).a = s.a := rfl
@[simp] theorem regUnknown_b (s : State) : (regUnknown s).b = s.b := rfl
@[simp] theorem regUnknown_c (s : State) : (regUnknown s).c = s.c := rfl
@[simp] theorem regUnknown_d (s : State) : (regUnknown s).d = s.d := rfl
@[simp] theorem regUnknown_cf (s : State) : (regUnknown s).cf = s.cf := rfl
@[simp] theorem regUnknown_zf (s : State) : (regUnknown s).zf = s.zf := rfl
@[simp] theorem regUnknown_i (s : State) : (regUnknown s).i = s.i := rfl
@[simp] theorem regUnknown_pc (s : State) : (regUnknown s).pc = s.pc := rfl
@[simp] theorem regUnknown_pend (s : State) : (regUnknown s).pend = s.pend := rfl
@[simp] theorem regUnknown_ind (s : State) : (regUnknown s).ind = s.ind := rfl
@[simp] theorem regUnknown_reg (s : State) : (regUnknown s).reg = Config.any8 s.draws .reg := rfl
@[simp] theorem regUnknown_co (s : State) : (regUnknown s).co = s.co := rfl
@[simp] theorem regUnknown_hl (s : State) : (regUnknown s).hl = s.hl := rfl
@[simp] theorem regUnknown_stk (s : State) : (regUnknown s).stk = s.stk := rfl
@[simp] theorem regUnknown_bank (s : State) : (regUnknown s).bank = s.bank := rfl
@[simp] theorem regUnknown_ie (s : State) : (regUnknown s).ie = s.ie := rfl
@[simp] theorem regUnknown_ins (s : State) : (regUnknown s).ins = s.ins := rfl
@[simp] theorem regUnknown_gr (s : State) : (regUnknown s).gr = s.gr := rfl
@[simp] theorem regUnknown_seq (s : State) : (regUnknown s).seq = s.seq := rfl
@[simp] theorem regUnknown_ira (s : State) : (regUnknown s).ira = s.ira := rfl
@[simp] theorem regUnknown_irav (s : State) : (regUnknown s).irav = s.irav := rfl
@[simp] theorem regUnknown_cip (s : State) : (regUnknown s).cip = s.cip := rfl
@[simp] theorem regUnknown_dmem (s : State) : (regUnknown s).dmem = s.dmem := rfl
@[simp] theorem regUnknown_pmem (s : State) : (regUnknown s).pmem = s.pmem := rfl
@[simp] theorem regUnknown_cfg (s : State) : (regUnknown s).cfg = s.cfg := rfl
@[simp] theorem regUnknown_irq0 (s : State) : (regUnknown s).irq0 = s.irq0 := rfl
@[simp] theorem regUnknown_irq1 (s : State) : (regUnknown s).irq1 = s.irq1 := rfl
@[simp] theorem regUnknown_irqNext (s : State) : (regUnknown s).irqNext = s.irqNext := rfl
@[simp] theorem regUnknown_portIn (s : State) : (regUnknown s).portIn = s.portIn := rfl
@[simp] theorem regUnknown_trace (s : State) : (regUnknown s).trace = s.trace := rfl
@[simp] theorem regUnknown_draws (s : State) : (regUnknown s).draws = s.draws := rfl

/-! ### finish -/

@[simp] theorem finish_a (s : State) (t : Transfer) (u : State) : (finish s t u).a = u.a := rfl
@[simp] theorem finish_b (s : State) (t : Transfer) (u : State) : (finish s t u).b = u.b := rfl
@[simp] theorem finish_c (s : State) (t : Transfer) (u : State) : (finish s t u).c = u.c := rfl
@[simp] theorem finish_d (s : State) (t : Transfer) (u : State) : (finish s t u).d = u.d := rfl
@[simp] theorem finish_cf (s : State) (t : Transfer) (u : State) : (finish s t u).cf = u.cf := rfl
@[simp] theorem finish_zf (s : State) (t : Transfer) (u : State) : (finish s t u).zf = u.zf := rfl
@[simp] theorem finish_i (s : State) (t : Transfer) (u : State) : (finish s t u).i = u.i := rfl
@[simp] theorem finish_pc (s : State) (t : Transfer) (u : State) : (finish s t u).pc = nextPc s t := rfl
@[simp] theorem finish_pend (s : State) (t : Transfer) (u : State) : (finish s t u).pend = nextPend s t := rfl
@[simp] theorem finish_ind (s : State) (t : Transfer) (u : State) : (finish s t u).ind = nextInd s t := rfl
@[simp] theorem finish_reg (s : State) (t : Transfer) (u : State) : (finish s t u).reg = controlReg s u t := rfl
@[simp] theorem finish_co (s : State) (t : Transfer) (u : State) : (finish s t u).co = u.co := rfl
@[simp] theorem finish_hl (s : State) (t : Transfer) (u : State) : (finish s t u).hl = u.hl := rfl
@[simp] theorem finish_stk (s : State) (t : Transfer) (u : State) : (finish s t u).stk = u.stk := rfl
@[simp] theorem finish_bank (s : State) (t : Transfer) (u : State) : (finish s t u).bank = u.bank := rfl
@[simp] theorem finish_ie (s : State) (t : Transfer) (u : State) : (finish s t u).ie = u.ie := rfl
@[simp] theorem finish_ins (s : State) (t : Transfer) (u : State) : (finish s t u).ins = u.ins := rfl
@[simp] theorem finish_gr (s : State) (t : Transfer) (u : State) : (finish s t u).gr = false := rfl
@[simp] theorem finish_seq (s : State) (t : Transfer) (u : State) : (finish s t u).seq = nextSeq s t := rfl
@[simp] theorem finish_ira (s : State) (t : Transfer) (u : State) : (finish s t u).ira = u.ira := rfl
@[simp] theorem finish_irav (s : State) (t : Transfer) (u : State) : (finish s t u).irav = u.irav := rfl
@[simp] theorem finish_cip (s : State) (t : Transfer) (u : State) : (finish s t u).cip = u.cip := rfl
@[simp] theorem finish_dmem (s : State) (t : Transfer) (u : State) : (finish s t u).dmem = u.dmem := rfl
@[simp] theorem finish_pmem (s : State) (t : Transfer) (u : State) : (finish s t u).pmem = u.pmem := rfl
@[simp] theorem finish_cfg (s : State) (t : Transfer) (u : State) : (finish s t u).cfg = u.cfg := rfl
@[simp] theorem finish_irq0 (s : State) (t : Transfer) (u : State) : (finish s t u).irq0 = u.irq0 := rfl
@[simp] theorem finish_irq1 (s : State) (t : Transfer) (u : State) : (finish s t u).irq1 = u.irq1 := rfl
@[simp] theorem finish_irqNext (s : State) (t : Transfer) (u : State) : (finish s t u).irqNext = u.irqNext := rfl
@[simp] theorem finish_portIn (s : State) (t : Transfer) (u : State) : (finish s t u).portIn = u.portIn := rfl
@[simp] theorem finish_trace (s : State) (t : Transfer) (u : State) : (finish s t u).trace = u.trace := rfl
@[simp] theorem finish_draws (s : State) (t : Transfer) (u : State) : (finish s t u).draws = s.draws + 1 := rfl

/-! ### emit -/

@[simp] theorem emit_a (e : IoEvent) (s : State) : (emit e s).a = s.a := rfl
@[simp] theorem emit_b (e : IoEvent) (s : State) : (emit e s).b = s.b := rfl
@[simp] theorem emit_c (e : IoEvent) (s : State) : (emit e s).c = s.c := rfl
@[simp] theorem emit_d (e : IoEvent) (s : State) : (emit e s).d = s.d := rfl
@[simp] theorem emit_cf (e : IoEvent) (s : State) : (emit e s).cf = s.cf := rfl
@[simp] theorem emit_zf (e : IoEvent) (s : State) : (emit e s).zf = s.zf := rfl
@[simp] theorem emit_i (e : IoEvent) (s : State) : (emit e s).i = s.i := rfl
@[simp] theorem emit_pc (e : IoEvent) (s : State) : (emit e s).pc = s.pc := rfl
@[simp] theorem emit_pend (e : IoEvent) (s : State) : (emit e s).pend = s.pend := rfl
@[simp] theorem emit_ind (e : IoEvent) (s : State) : (emit e s).ind = s.ind := rfl
@[simp] theorem emit_reg (e : IoEvent) (s : State) : (emit e s).reg = s.reg := rfl
@[simp] theorem emit_co (e : IoEvent) (s : State) : (emit e s).co = s.co := rfl
@[simp] theorem emit_hl (e : IoEvent) (s : State) : (emit e s).hl = s.hl := rfl
@[simp] theorem emit_stk (e : IoEvent) (s : State) : (emit e s).stk = s.stk := rfl
@[simp] theorem emit_bank (e : IoEvent) (s : State) : (emit e s).bank = s.bank := rfl
@[simp] theorem emit_ie (e : IoEvent) (s : State) : (emit e s).ie = s.ie := rfl
@[simp] theorem emit_ins (e : IoEvent) (s : State) : (emit e s).ins = s.ins := rfl
@[simp] theorem emit_gr (e : IoEvent) (s : State) : (emit e s).gr = s.gr := rfl
@[simp] theorem emit_seq (e : IoEvent) (s : State) : (emit e s).seq = s.seq := rfl
@[simp] theorem emit_ira (e : IoEvent) (s : State) : (emit e s).ira = s.ira := rfl
@[simp] theorem emit_irav (e : IoEvent) (s : State) : (emit e s).irav = s.irav := rfl
@[simp] theorem emit_cip (e : IoEvent) (s : State) : (emit e s).cip = s.cip := rfl
@[simp] theorem emit_dmem (e : IoEvent) (s : State) : (emit e s).dmem = s.dmem := rfl
@[simp] theorem emit_pmem (e : IoEvent) (s : State) : (emit e s).pmem = s.pmem := rfl
@[simp] theorem emit_cfg (e : IoEvent) (s : State) : (emit e s).cfg = s.cfg := rfl
@[simp] theorem emit_irq0 (e : IoEvent) (s : State) : (emit e s).irq0 = s.irq0 := rfl
@[simp] theorem emit_irq1 (e : IoEvent) (s : State) : (emit e s).irq1 = s.irq1 := rfl
@[simp] theorem emit_irqNext (e : IoEvent) (s : State) : (emit e s).irqNext = s.irqNext := rfl
@[simp] theorem emit_portIn (e : IoEvent) (s : State) : (emit e s).portIn = s.portIn := rfl
@[simp] theorem emit_trace (e : IoEvent) (s : State) : (emit e s).trace = s.trace ++ [e] := rfl
@[simp] theorem emit_draws (e : IoEvent) (s : State) : (emit e s).draws = s.draws := rfl

/-! ### interruptEntry -/

@[simp] theorem interruptEntry_a (s : State) : (interruptEntry s).a = s.a := rfl
@[simp] theorem interruptEntry_b (s : State) : (interruptEntry s).b = s.b := rfl
@[simp] theorem interruptEntry_c (s : State) : (interruptEntry s).c = s.c := rfl
@[simp] theorem interruptEntry_d (s : State) : (interruptEntry s).d = s.d := rfl
@[simp] theorem interruptEntry_cf (s : State) : (interruptEntry s).cf = s.cf := rfl
@[simp] theorem interruptEntry_zf (s : State) : (interruptEntry s).zf = s.zf := rfl
@[simp] theorem interruptEntry_i (s : State) : (interruptEntry s).i = s.i := rfl
@[simp] theorem interruptEntry_pc (s : State) : (interruptEntry s).pc = if s.irq0 then 2 else 3 := rfl
@[simp] theorem interruptEntry_pend (s : State) : (interruptEntry s).pend = s.pend := rfl
@[simp] theorem interruptEntry_ind (s : State) : (interruptEntry s).ind = s.ind := rfl
@[simp] theorem interruptEntry_reg (s : State) : (interruptEntry s).reg = Config.any8 s.draws .reg := rfl
@[simp] theorem interruptEntry_co (s : State) : (interruptEntry s).co = s.co := rfl
@[simp] theorem interruptEntry_hl (s : State) : (interruptEntry s).hl = s.hl := rfl
@[simp] theorem interruptEntry_stk (s : State) : (interruptEntry s).stk = s.stk := rfl
@[simp] theorem interruptEntry_bank (s : State) : (interruptEntry s).bank = s.bank := rfl
@[simp] theorem interruptEntry_ie (s : State) : (interruptEntry s).ie = s.ie := rfl
@[simp] theorem interruptEntry_ins (s : State) : (interruptEntry s).ins = true := rfl
@[simp] theorem interruptEntry_gr (s : State) : (interruptEntry s).gr = s.gr := rfl
@[simp] theorem interruptEntry_seq (s : State) : (interruptEntry s).seq = false := rfl
@[simp] theorem interruptEntry_ira (s : State) : (interruptEntry s).ira = s.pc := rfl
@[simp] theorem interruptEntry_irav (s : State) : (interruptEntry s).irav = if s.seq then some (s.pc + BitVec.ofNat 16 s.cfg.iraReadOffset) else none := rfl
@[simp] theorem interruptEntry_cip (s : State) : (interruptEntry s).cip = s.cip := rfl
@[simp] theorem interruptEntry_dmem (s : State) : (interruptEntry s).dmem = s.dmem := rfl
@[simp] theorem interruptEntry_pmem (s : State) : (interruptEntry s).pmem = s.pmem := rfl
@[simp] theorem interruptEntry_cfg (s : State) : (interruptEntry s).cfg = s.cfg := rfl
@[simp] theorem interruptEntry_irq0 (s : State) : (interruptEntry s).irq0 = s.irq0 := rfl
@[simp] theorem interruptEntry_irq1 (s : State) : (interruptEntry s).irq1 = s.irq1 := rfl
@[simp] theorem interruptEntry_irqNext (s : State) : (interruptEntry s).irqNext = s.irqNext := rfl
@[simp] theorem interruptEntry_portIn (s : State) : (interruptEntry s).portIn = s.portIn := rfl
@[simp] theorem interruptEntry_trace (s : State) : (interruptEntry s).trace = s.trace := rfl
@[simp] theorem interruptEntry_draws (s : State) : (interruptEntry s).draws = s.draws + 1 := rfl

/-! ### interruptReturn -/

@[simp] theorem interruptReturn_a (s u : State) : (interruptReturn s u).a = u.a := rfl
@[simp] theorem interruptReturn_b (s u : State) : (interruptReturn s u).b = u.b := rfl
@[simp] theorem interruptReturn_c (s u : State) : (interruptReturn s u).c = u.c := rfl
@[simp] theorem interruptReturn_d (s u : State) : (interruptReturn s u).d = u.d := rfl
@[simp] theorem interruptReturn_cf (s u : State) : (interruptReturn s u).cf = u.cf := rfl
@[simp] theorem interruptReturn_zf (s u : State) : (interruptReturn s u).zf = u.zf := rfl
@[simp] theorem interruptReturn_i (s u : State) : (interruptReturn s u).i = u.i := rfl
@[simp] theorem interruptReturn_pc (s u : State) : (interruptReturn s u).pc = s.ira := rfl
@[simp] theorem interruptReturn_pend (s u : State) : (interruptReturn s u).pend = none := rfl
@[simp] theorem interruptReturn_ind (s u : State) : (interruptReturn s u).ind = false := rfl
@[simp] theorem interruptReturn_reg (s u : State) : (interruptReturn s u).reg = Config.any8 s.draws .reg := rfl
@[simp] theorem interruptReturn_co (s u : State) : (interruptReturn s u).co = u.co := rfl
@[simp] theorem interruptReturn_hl (s u : State) : (interruptReturn s u).hl = u.hl := rfl
@[simp] theorem interruptReturn_stk (s u : State) : (interruptReturn s u).stk = u.stk := rfl
@[simp] theorem interruptReturn_bank (s u : State) : (interruptReturn s u).bank = u.bank := rfl
@[simp] theorem interruptReturn_ie (s u : State) : (interruptReturn s u).ie = u.ie := rfl
@[simp] theorem interruptReturn_ins (s u : State) : (interruptReturn s u).ins = false := rfl
@[simp] theorem interruptReturn_gr (s u : State) : (interruptReturn s u).gr = true := rfl
@[simp] theorem interruptReturn_seq (s u : State) : (interruptReturn s u).seq = false := rfl
@[simp] theorem interruptReturn_ira (s u : State) : (interruptReturn s u).ira = u.ira := rfl
@[simp] theorem interruptReturn_irav (s u : State) : (interruptReturn s u).irav = u.irav := rfl
@[simp] theorem interruptReturn_cip (s u : State) : (interruptReturn s u).cip = u.cip := rfl
@[simp] theorem interruptReturn_dmem (s u : State) : (interruptReturn s u).dmem = u.dmem := rfl
@[simp] theorem interruptReturn_pmem (s u : State) : (interruptReturn s u).pmem = u.pmem := rfl
@[simp] theorem interruptReturn_cfg (s u : State) : (interruptReturn s u).cfg = u.cfg := rfl
@[simp] theorem interruptReturn_irq0 (s u : State) : (interruptReturn s u).irq0 = u.irq0 := rfl
@[simp] theorem interruptReturn_irq1 (s u : State) : (interruptReturn s u).irq1 = u.irq1 := rfl
@[simp] theorem interruptReturn_irqNext (s u : State) : (interruptReturn s u).irqNext = u.irqNext := rfl
@[simp] theorem interruptReturn_portIn (s u : State) : (interruptReturn s u).portIn = u.portIn := rfl
@[simp] theorem interruptReturn_trace (s u : State) : (interruptReturn s u).trace = u.trace := rfl
@[simp] theorem interruptReturn_draws (s u : State) : (interruptReturn s u).draws = s.draws + 1 := rfl

/-! ### withFetchWord -/

@[simp] theorem withFetchWord_a (s : State) (nbits w : Nat) : (s.withFetchWord nbits w).a = s.a := rfl
@[simp] theorem withFetchWord_b (s : State) (nbits w : Nat) : (s.withFetchWord nbits w).b = s.b := rfl
@[simp] theorem withFetchWord_c (s : State) (nbits w : Nat) : (s.withFetchWord nbits w).c = s.c := rfl
@[simp] theorem withFetchWord_d (s : State) (nbits w : Nat) : (s.withFetchWord nbits w).d = s.d := rfl
@[simp] theorem withFetchWord_cf (s : State) (nbits w : Nat) : (s.withFetchWord nbits w).cf = s.cf := rfl
@[simp] theorem withFetchWord_zf (s : State) (nbits w : Nat) : (s.withFetchWord nbits w).zf = s.zf := rfl
@[simp] theorem withFetchWord_i (s : State) (nbits w : Nat) : (s.withFetchWord nbits w).i = s.i := rfl
@[simp] theorem withFetchWord_pc (s : State) (nbits w : Nat) : (s.withFetchWord nbits w).pc = s.pc := rfl
@[simp] theorem withFetchWord_pend (s : State) (nbits w : Nat) : (s.withFetchWord nbits w).pend = s.pend := rfl
@[simp] theorem withFetchWord_ind (s : State) (nbits w : Nat) : (s.withFetchWord nbits w).ind = s.ind := rfl
@[simp] theorem withFetchWord_reg (s : State) (nbits w : Nat) : (s.withFetchWord nbits w).reg = s.reg := rfl
@[simp] theorem withFetchWord_co (s : State) (nbits w : Nat) : (s.withFetchWord nbits w).co = s.co := rfl
@[simp] theorem withFetchWord_hl (s : State) (nbits w : Nat) : (s.withFetchWord nbits w).hl = halfFor (tableWord nbits w) s.hl := rfl
@[simp] theorem withFetchWord_stk (s : State) (nbits w : Nat) : (s.withFetchWord nbits w).stk = s.stk := rfl
@[simp] theorem withFetchWord_bank (s : State) (nbits w : Nat) : (s.withFetchWord nbits w).bank = s.bank := rfl
@[simp] theorem withFetchWord_ie (s : State) (nbits w : Nat) : (s.withFetchWord nbits w).ie = s.ie := rfl
@[simp] theorem withFetchWord_ins (s : State) (nbits w : Nat) : (s.withFetchWord nbits w).ins = s.ins := rfl
@[simp] theorem withFetchWord_gr (s : State) (nbits w : Nat) : (s.withFetchWord nbits w).gr = s.gr := rfl
@[simp] theorem withFetchWord_seq (s : State) (nbits w : Nat) : (s.withFetchWord nbits w).seq = s.seq := rfl
@[simp] theorem withFetchWord_ira (s : State) (nbits w : Nat) : (s.withFetchWord nbits w).ira = s.ira := rfl
@[simp] theorem withFetchWord_irav (s : State) (nbits w : Nat) : (s.withFetchWord nbits w).irav = s.irav := rfl
@[simp] theorem withFetchWord_cip (s : State) (nbits w : Nat) : (s.withFetchWord nbits w).cip = s.cip := rfl
@[simp] theorem withFetchWord_dmem (s : State) (nbits w : Nat) : (s.withFetchWord nbits w).dmem = s.dmem := rfl
@[simp] theorem withFetchWord_pmem (s : State) (nbits w : Nat) : (s.withFetchWord nbits w).pmem = s.pmem.store s.pc.toNat (tableWord nbits w) := rfl
@[simp] theorem withFetchWord_cfg (s : State) (nbits w : Nat) : (s.withFetchWord nbits w).cfg = s.cfg := rfl
@[simp] theorem withFetchWord_irq0 (s : State) (nbits w : Nat) : (s.withFetchWord nbits w).irq0 = s.irq0 := rfl
@[simp] theorem withFetchWord_irq1 (s : State) (nbits w : Nat) : (s.withFetchWord nbits w).irq1 = s.irq1 := rfl
@[simp] theorem withFetchWord_irqNext (s : State) (nbits w : Nat) : (s.withFetchWord nbits w).irqNext = s.irqNext := rfl
@[simp] theorem withFetchWord_portIn (s : State) (nbits w : Nat) : (s.withFetchWord nbits w).portIn = s.portIn := rfl
@[simp] theorem withFetchWord_trace (s : State) (nbits w : Nat) : (s.withFetchWord nbits w).trace = s.trace := rfl
@[simp] theorem withFetchWord_draws (s : State) (nbits w : Nat) : (s.withFetchWord nbits w).draws = s.draws := rfl

/-! ### nextLines: the interrupt lines alone move on -/

@[simp] theorem nextLines_a (s : State) : (nextLines s).a = s.a := by
  unfold nextLines; split <;> rfl
@[simp] theorem nextLines_b (s : State) : (nextLines s).b = s.b := by
  unfold nextLines; split <;> rfl
@[simp] theorem nextLines_c (s : State) : (nextLines s).c = s.c := by
  unfold nextLines; split <;> rfl
@[simp] theorem nextLines_d (s : State) : (nextLines s).d = s.d := by
  unfold nextLines; split <;> rfl
@[simp] theorem nextLines_cf (s : State) : (nextLines s).cf = s.cf := by
  unfold nextLines; split <;> rfl
@[simp] theorem nextLines_zf (s : State) : (nextLines s).zf = s.zf := by
  unfold nextLines; split <;> rfl
@[simp] theorem nextLines_i (s : State) : (nextLines s).i = s.i := by
  unfold nextLines; split <;> rfl
@[simp] theorem nextLines_pc (s : State) : (nextLines s).pc = s.pc := by
  unfold nextLines; split <;> rfl
@[simp] theorem nextLines_pend (s : State) : (nextLines s).pend = s.pend := by
  unfold nextLines; split <;> rfl
@[simp] theorem nextLines_ind (s : State) : (nextLines s).ind = s.ind := by
  unfold nextLines; split <;> rfl
@[simp] theorem nextLines_reg (s : State) : (nextLines s).reg = s.reg := by
  unfold nextLines; split <;> rfl
@[simp] theorem nextLines_co (s : State) : (nextLines s).co = s.co := by
  unfold nextLines; split <;> rfl
@[simp] theorem nextLines_hl (s : State) : (nextLines s).hl = s.hl := by
  unfold nextLines; split <;> rfl
@[simp] theorem nextLines_stk (s : State) : (nextLines s).stk = s.stk := by
  unfold nextLines; split <;> rfl
@[simp] theorem nextLines_bank (s : State) : (nextLines s).bank = s.bank := by
  unfold nextLines; split <;> rfl
@[simp] theorem nextLines_ie (s : State) : (nextLines s).ie = s.ie := by
  unfold nextLines; split <;> rfl
@[simp] theorem nextLines_ins (s : State) : (nextLines s).ins = s.ins := by
  unfold nextLines; split <;> rfl
@[simp] theorem nextLines_gr (s : State) : (nextLines s).gr = s.gr := by
  unfold nextLines; split <;> rfl
@[simp] theorem nextLines_seq (s : State) : (nextLines s).seq = s.seq := by
  unfold nextLines; split <;> rfl
@[simp] theorem nextLines_ira (s : State) : (nextLines s).ira = s.ira := by
  unfold nextLines; split <;> rfl
@[simp] theorem nextLines_irav (s : State) : (nextLines s).irav = s.irav := by
  unfold nextLines; split <;> rfl
@[simp] theorem nextLines_cip (s : State) : (nextLines s).cip = s.cip := by
  unfold nextLines; split <;> rfl
@[simp] theorem nextLines_dmem (s : State) : (nextLines s).dmem = s.dmem := by
  unfold nextLines; split <;> rfl
@[simp] theorem nextLines_pmem (s : State) : (nextLines s).pmem = s.pmem := by
  unfold nextLines; split <;> rfl
@[simp] theorem nextLines_cfg (s : State) : (nextLines s).cfg = s.cfg := by
  unfold nextLines; split <;> rfl
@[simp] theorem nextLines_portIn (s : State) : (nextLines s).portIn = s.portIn := by
  unfold nextLines; split <;> rfl
@[simp] theorem nextLines_trace (s : State) : (nextLines s).trace = s.trace := by
  unfold nextLines; split <;> rfl
@[simp] theorem nextLines_draws (s : State) : (nextLines s).draws = s.draws := by
  unfold nextLines; split <;> rfl

/-- Past the levels the state holds, the lines stay as they are. -/
theorem nextLines_held (s : State) (h : s.irqNext = []) : nextLines s = s := by
  unfold nextLines; rw [h]

/-- The next levels the state holds become those of the lines. -/
theorem nextLines_moved (s : State) (l0 l1 : Bool) (rest : List (Bool × Bool))
    (h : s.irqNext = (l0, l1) :: rest) :
    nextLines s = { s with irq0 := l0, irq1 := l1, irqNext := rest } := by
  unfold nextLines; rw [h]

end Sys2Proof.Machine
end

