-- ==== Sys2Proof/Laws/Ops.lean ====
section
/-!
SUPPORT. For each shared operation, once, everything it can do: if it answers a next state, this is what
held and this is the state. The provers cite these instead of unfolding the operation.
-/

namespace Sys2Proof.Machine

/-- The datapath step goes on only when the fields have a meaning and the addresses exist. -/
theorem withDatapath_next {k : AluOp} {f : Fields} {s t : State} {rest : State → Result}
    (h : withDatapath k f s rest = .next t) :
    fieldRefusal k f = none ∧ addressImplemented f s = true ∧ rest (datapath k f s) = .next t := by
  unfold withDatapath at h
  split at h
  · cases h
  · next hf =>
    split at h
    · next ha => exact ⟨hf, ha, h⟩
    · cases h

/-- When the fields have a meaning and the addresses exist, the datapath step is done. -/
theorem withDatapath_ok {k : AluOp} {f : Fields} {s : State} {rest : State → Result}
    (hf : fieldRefusal k f = none) (ha : addressImplemented f s = true) :
    withDatapath k f s rest = rest (datapath k f s) := by
  simp [withDatapath, hf, ha]

/-- A plain word goes on to the state its datapath, its extra effect and the control part make. -/
theorem plainWord_next {k : AluOp} {f : Fields} {s t : State} {extra : State → State}
    (h : plainWord k f s extra = .next t) :
    fieldRefusal k f = none ∧ addressImplemented f s = true ∧
      t = finish s .none (extra (datapath k f s)) := by
  obtain ⟨hf, ha, h⟩ := withDatapath_next h
  exact ⟨hf, ha, by cases h; rfl⟩

/-- A plain word whose fields have a meaning and whose addresses exist goes on. -/
theorem plainWord_ok {k : AluOp} {f : Fields} {s : State} (extra : State → State)
    (hf : fieldRefusal k f = none) (ha : addressImplemented f s = true) :
    plainWord k f s extra = .next (finish s .none (extra (datapath k f s))) :=
  withDatapath_ok hf ha

/-- Outside a delay slot nothing is refused. -/
@[simp] theorem outsideSlot_of_none {s : State} {rest : Result} (h : s.pend = none) :
    outsideSlot s rest = rest := by
  simp [outsideSlot, h]

/-- In a delay slot everything guarded is refused. -/
theorem outsideSlot_of_some {s : State} {rest : Result} {p : Delayed} (h : s.pend = some p) :
    outsideSlot s rest = .refused .transferInSlot := by
  simp [outsideSlot, h]

/-- A guarded operation goes on only outside a delay slot. -/
theorem outsideSlot_next {s t : State} {rest : Result} (h : outsideSlot s rest = .next t) :
    s.pend = none ∧ rest = .next t := by
  unfold outsideSlot at h
  split at h
  · next hp => exact ⟨hp, h⟩
  · cases h

/-- A push goes on only below the stack's depth, with the value on top. -/
theorem pushThen_next {s t : State} {v : Addr} {rest : List Addr → Result}
    (h : pushThen s v rest = .next t) :
    s.stk.length < s.cfg.stackDepth ∧ rest (v :: s.stk) = .next t := by
  unfold pushThen pushed at h
  split at h
  · next hp =>
    split at hp
    · next hl => cases hp; exact ⟨hl, h⟩
    · cases hp
  · cases h

/-- Below the stack's depth a push is done. -/
theorem pushThen_ok {s : State} {v : Addr} {rest : List Addr → Result}
    (h : s.stk.length < s.cfg.stackDepth) : pushThen s v rest = rest (v :: s.stk) := by
  simp [pushThen, pushed, h]

/-- On a full stack a push is refused. -/
theorem pushThen_full {s : State} {v : Addr} {rest : List Addr → Result}
    (h : s.cfg.stackDepth ≤ s.stk.length) : pushThen s v rest = .refused .stackOverflow := by
  simp [pushThen, pushed, Nat.not_lt.mpr h]

/-- A pop goes on only on a stack that holds an entry. -/
theorem popThen_next {s t : State} {rest : Addr → List Addr → Option Nat → Result}
    (h : popThen s rest = .next t) :
    ∃ v stk, s.stk = v :: stk ∧ rest v stk (cipAfterPop s.cip stk.length) = .next t := by
  unfold popThen at h
  split at h
  · next v stk hs => exact ⟨v, stk, hs, h⟩
  · cases h

/-- On a stack that holds an entry a pop is done. -/
theorem popThen_ok {s : State} {v : Addr} {stk : List Addr}
    {rest : Addr → List Addr → Option Nat → Result} (h : s.stk = v :: stk) :
    popThen s rest = rest v stk (cipAfterPop s.cip stk.length) := by
  simp [popThen, h]

/-- On an empty stack a pop is refused. -/
theorem popThen_empty {s : State} {rest : Addr → List Addr → Option Nat → Result}
    (h : s.stk = []) : popThen s rest = .refused .stackUnderflow := by
  simp [popThen, h]

/-- A branch word goes on only outside a slot, to the state its control part makes. -/
theorem branchWord_next {lsh : Bool} {s t : State} {tr : Transfer}
    (h : branchWord lsh s tr = .next t) :
    s.pend = none ∧ t = finish s tr (addressDatapath lsh s) := by
  obtain ⟨hp, h⟩ := outsideSlot_next h
  exact ⟨hp, by cases h; rfl⟩

/-- A call that is made goes on only to another target than 1, below the stack's depth. -/
theorem callTaken_next {lsh : Bool} {s t : State} {ra target : Addr} {tr : Transfer}
    (h : callTaken lsh s ra target tr = .next t) :
    target ≠ 1 ∧ s.stk.length < s.cfg.stackDepth ∧
      t = finish s tr { addressDatapath lsh s with stk := ra :: s.stk } := by
  unfold callTaken at h
  split at h
  · cases h
  · next ht =>
    obtain ⟨hl, h⟩ := pushThen_next h
    exact ⟨ht, hl, by cases h; rfl⟩

/-- A return that is made goes on only to another address than 1. -/
theorem returnTaken_next {s u t : State} {mk : Addr → Transfer}
    (h : returnTaken s u mk = .next t) :
    ∃ v stk, s.stk = v :: stk ∧ v ≠ 1 ∧
      t = finish s (mk v) { u with stk := stk, cip := cipAfterPop s.cip stk.length } := by
  obtain ⟨v, stk, hs, h⟩ := popThen_next h
  split at h
  · cases h
  · next hv => exact ⟨v, stk, hs, hv, by cases h; rfl⟩

/-- A compressed instruction starts only outside slots, handlers and other compressed instructions,
below the stack's depth. -/
theorem compressedStart_next {cop : BitVec 7} {copd : Byte} {ra : Addr} {hl : Bool} {s t : State}
    (h : compressedStart cop copd ra hl s = .next t) :
    s.pend = none ∧ s.ind = false ∧ s.ins = false ∧ s.cip = none ∧
      s.stk.length < s.cfg.stackDepth ∧
      t = finish s (.now (compressedEntry cop))
        { s with co := copd, stk := ra :: s.stk, cip := some (s.stk.length + 1), hl := hl } := by
  unfold compressedStart at h
  split at h
  · cases h
  · next h1 =>
    split at h
    · cases h
    · next h2 =>
      split at h
      · cases h
      · next h3 =>
        obtain ⟨hl', h⟩ := pushThen_next h
        simp only [not_or, ne_eq, Decidable.not_not, Bool.not_eq_true] at h1 h2 h3
        exact ⟨h1.1, h1.2, h2, h3, hl', by cases h; rfl⟩

/-- An input goes on only with a byte to read, to the state its control part makes. -/
theorem inputWord_next {f : Fields} {s t : State} {event : Option Byte → IoEvent}
    (h : inputWord f s event = .next t) :
    ∃ v, inByte s (zNum f s) = .ok v ∧ fieldRefusal (.input v) f = none ∧
      addressImplemented f s = true ∧
      t = finish s .none (emit (event (takenByte (zNum f s) v))
        { datapath (.input v) f s with portIn := portAfter s (zNum f s) }) := by
  unfold inputWord at h
  split at h
  · cases h
  · next v hv =>
    obtain ⟨hf, ha, h⟩ := withDatapath_next h
    exact ⟨v, hv, hf, ha, by cases h; rfl⟩

/-- The lines move on after a step that goes on, and only then. -/
theorem afterStep_next {r : Result} {t : State} (h : afterStep r = .next t) :
    ∃ u, r = .next u ∧ t = nextLines u := by
  cases r with
  | next u => exact ⟨u, rfl, by cases h; rfl⟩
  | fault x => cases h
  | refused r => cases h

/-- The fetch gives an instruction only inside program memory, from a loaded word that may be reached and
that decodes. -/
theorem fetchInstr_next {s : State} {i : Instr} (h : fetchInstr s = .next i) :
    ∃ w, fetchWord s = .ok w ∧ addressOneRefusal s w = none ∧ decode s.cfg.variantBit s.hl w = .ok i := by
  unfold fetchInstr at h
  split at h
  · cases h
  · next w hw =>
    split at h
    · cases h
    · next ha =>
      split at h
      · next j hd => cases h; exact ⟨w, hw, ha, hd⟩
      · cases h

/-- Program memory gives a word only where it is implemented and loaded. -/
theorem programWord_some {s : State} {a : Nat} {w : Word} (h : programWord s a = some w) :
    a < s.cfg.pmemWords ∧ s.pmem.lookup a = some w := by
  unfold programWord at h
  split at h
  · next ha => exact ⟨ha, h⟩
  · cases h

/-- Inside program memory the word is the one listed. -/
theorem programWord_of_lt {s : State} {a : Nat} (h : a < s.cfg.pmemWords) :
    programWord s a = s.pmem.lookup a := by
  simp [programWord, h]

/-- Outside program memory there is no word. -/
theorem programWord_of_le {s : State} {a : Nat} (h : s.cfg.pmemWords ≤ a) :
    programWord s a = none := by
  simp [programWord, Nat.not_lt.mpr h]

/-- The fetch gives a word only from inside program memory. -/
theorem fetchWord_ok {s : State} {w : Word} (h : fetchWord s = .ok w) :
    s.pc.toNat < s.cfg.pmemWords ∧ s.pmem.lookup s.pc.toNat = some w := by
  unfold fetchWord at h
  split at h
  · next v hv => cases h; exact programWord_some hv
  · split at h <;> cases h

/-- An executed instruction was fetched. -/
theorem runInstruction_next {s t : State} (h : runInstruction s = .next t) :
    ∃ i, fetchInstr s = .next i ∧ exec i s = .next t := by
  unfold runInstruction at h
  split at h
  · next i hi => exact ⟨i, hi, h⟩
  · cases h
  · cases h

/-- Everything a step can do: enter an interrupt, or execute the instruction fetched. -/
theorem step_next {s t : State} (h : step s = .next t) :
    (boundary s = .enter ∧ t = nextLines (interruptEntry s)) ∨
    (boundary s = .run ∧ ∃ i u, fetchInstr s = .next i ∧ exec i s = .next u ∧ t = nextLines u) := by
  unfold step at h
  split at h
  · next hb => exact .inl ⟨hb, by cases h; rfl⟩
  · cases h
  · next hb =>
    obtain ⟨u, hu, ht⟩ := afterStep_next h
    obtain ⟨i, hi, he⟩ := runInstruction_next hu
    exact .inr ⟨hb, i, u, hi, he, ht⟩

/-- An interrupt is entered only with a request present, enabled, none in service, no grace, and no
transfer in flight. -/
theorem boundary_enter {s : State} (h : boundary s = .enter) :
    (s.irq0 = true ∨ s.irq1 = true) ∧ s.ie = true ∧ s.ins = false ∧ s.gr = false ∧
      s.pend = none ∧ s.ind = false := by
  unfold boundary at h
  split at h
  · next hr =>
    split at h
    · split at h <;> cases h
    · next ht =>
      simp only [requestAllowed, Bool.and_eq_true, Bool.or_eq_true, Bool.not_eq_true'] at hr
      have ht' := Bool.eq_false_iff.mpr ht
      simp only [inTransfer, Bool.or_eq_false_iff, Option.isSome_eq_false_iff,
        Option.isNone_iff_eq_none] at ht'
      exact ⟨hr.1.1.1, hr.1.1.2, hr.1.2, hr.2, ht'.1, ht'.2⟩
  · cases h

/-- With DivStep at its default a divide step is that of 40_datapath_fields.md R99. -/
theorem divOut_default {f : Fields} {s : State} (h : s.cfg.divStep = []) :
    divOut f s = divRestoring (divIn f s) := by
  simp [divOut, h]

/-- In a divide step the bit that enters C is the quotient bit. -/
theorem quotientBit_diva {f : Fields} {s : State} (h : f.addl = .diva) :
    quotientBit f s = (divOut f s).q := by
  simp [quotientBit, h]

/-- In a divide step ANS is the step's. -/
theorem sumAns_diva {f : Fields} {s : State} (h : f.addl = .diva) :
    sumAns f s = (divOut f s).ans := by
  simp [sumAns, h]

/-- Outside a divide step the bit that enters C is ShiftIn's. -/
theorem quotientBit_plain {f : Fields} {s : State} (h : f.addl ≠ .diva) :
    quotientBit f s = shiftInBit f s := by
  simp [quotientBit, h]

/-- Outside a divide step ANS is the sum. -/
theorem sumAns_plain {f : Fields} {s : State} (h : f.addl ≠ .diva) :
    sumAns f s = (sum9 f s).setWidth 8 := by
  simp [sumAns, h]

/-- A pop that does not leave the compressed instruction keeps CIP; one that does ends it. -/
theorem cipAfterPop_some {cip : Option Nat} {n d : Nat} (h : cipAfterPop cip n = some d) :
    cip = some d ∧ d ≤ n := by
  unfold cipAfterPop at h
  split at h
  · split at h
    · cases h
    · cases h; exact ⟨rfl, by omega⟩
  · cases h

/-- With no transfer pending and no indirect jump, a word without a transfer falls through. -/
theorem finish_none_plain {s : State} (u : State) (hp : s.pend = none) (hi : s.ind = false) :
    finish s .none u =
      { u with pc := s.pc + 1, pend := none, ind := false, seq := true, gr := false,
               draws := s.draws + 1 } := by
  have h1 : nextPc s .none = s.pc + 1 := by unfold nextPc; rw [hp, hi]; rfl
  have h2 : nextPend s .none = none := by unfold nextPend; rw [hp]
  have h3 : nextInd s .none = false := by unfold nextInd; rw [hp]
  have h4 : nextSeq s .none = true := by unfold nextSeq; rw [hp, hi]; rfl
  have h5 : controlReg s u .none = u.reg := by unfold controlReg; rw [hi]; rfl
  unfold finish
  rw [h1, h2, h3, h4, h5]

end Sys2Proof.Machine
end

