-- ==== Sys2Proof/Laws/PerInstr.lean ====
section
/-!
SUPPORT. The family `TableRow`: the word of an instruction has the fixed bits that its row of
spec/opcode_table.json gives, one lemma for each constructor of `Instr`.
-/

/-- The mask and the match of the row of an instruction in spec/opcode_table.json. -/
def Sys2Proof.Laws.TableRow.row : Sys2Proof.Instr → Sys2Proof.Word × Sys2Proof.Word
  | .nop _ => (0xBE000000, 0x00000000)
  | .iX _ => (0xBE000000, 0x02000000)
  | .b _ _ => (0xBE010000, 0x04000000)
  | .jb _ _ => (0xBE010000, 0x04010000)
  | .bcf0 _ _ => (0xBE010000, 0x06000000)
  | .bcf1 _ _ => (0xBE010000, 0x06010000)
  | .bzf0 _ _ => (0xBE010000, 0x08000000)
  | .bzf1 _ _ => (0xBE010000, 0x08010000)
  | .bc0 _ _ => (0xBE010000, 0x0A000000)
  | .bc1 _ _ => (0xBE010000, 0x0A010000)
  | .call _ _ => (0xBE010000, 0x0C000000)
  | .jcall _ _ => (0xBE010000, 0x0C010000)
  | .call0 _ _ => (0xBE010000, 0x0E000000)
  | .call1 _ _ => (0xBE010000, 0x0E010000)
  | .ret _ => (0xBE000000, 0x10000000)
  | .jret _ => (0xBE000000, 0x12000000)
  | .ret0 _ => (0xBE000000, 0x14000000)
  | .ret1 _ => (0xBE000000, 0x16000000)
  | .loop _ => (0xFE000000, 0x18000000)
  | .wait _ => (0xBE000000, 0x1A000000)
  | .dReg _ => (0xBE000000, 0x1C000000)
  | .undefined15 _ => (0xBE000000, 0x1E000000)
  | .add _ => (0xBE000000, 0x20000000)
  | .and _ => (0xBE000000, 0x22000000)
  | .xor _ => (0xBE000000, 0x24000000)
  | .or _ => (0xBE000000, 0x26000000)
  | .mov _ => (0xBE000000, 0x28000000)
  | .regbank _ => (0xBE000000, 0x2A000000)
  | .enable _ => (0xBE000000, 0x2C000000)
  | .disable _ => (0xBE000000, 0x2E000000)
  | .returni _ => (0xBE000000, 0x30000000)
  | .popsp _ => (0xBE000000, 0x32000000)
  | .iostrobe _ => (0xBE000000, 0x34000000)
  | .outputk _ => (0xBE000000, 0x36000000)
  | .inputoutput _ => (0xBE000000, 0x38000000)
  | .input _ => (0xBE000000, 0x3A000000)
  | .output _ => (0xBE000000, 0x3C000000)
  | .undefined31 _ => (0xBE000000, 0x3E000000)
  | .compressedUpper _ _ => (0x80000000, 0x80000000)
  | .compressedLower _ _ => (0x80008000, 0x80008000)

/-- The statement of the family. -/
def Sys2Proof.Laws.TableRow.Statement (i : Sys2Proof.Instr) : Prop :=
  i.wf = true → Sys2Proof.encode Sys2Proof.tableVariantBit i &&& (Sys2Proof.Laws.TableRow.row i).1 =
    (Sys2Proof.Laws.TableRow.row i).2

theorem Sys2Proof.Laws.TableRow.nop (f : Sys2Proof.Fields) :
    Sys2Proof.Laws.TableRow.Statement (.nop f) := fun _ => Sys2Proof.encodeFields_opcode _ f

theorem Sys2Proof.Laws.TableRow.iX (f : Sys2Proof.Fields) :
    Sys2Proof.Laws.TableRow.Statement (.iX f) := fun _ => Sys2Proof.encodeFields_opcode _ f

theorem Sys2Proof.Laws.TableRow.b (l : Bool) (t : Sys2Proof.Addr) :
    Sys2Proof.Laws.TableRow.Statement (.b l t) := fun _ => Sys2Proof.encodeAddress_opcode _ _ l t

theorem Sys2Proof.Laws.TableRow.jb (l : Bool) (t : Sys2Proof.Addr) :
    Sys2Proof.Laws.TableRow.Statement (.jb l t) := fun _ => Sys2Proof.encodeAddress_opcode _ _ l t

theorem Sys2Proof.Laws.TableRow.bcf0 (l : Bool) (t : Sys2Proof.Addr) :
    Sys2Proof.Laws.TableRow.Statement (.bcf0 l t) := fun _ => Sys2Proof.encodeAddress_opcode _ _ l t

theorem Sys2Proof.Laws.TableRow.bcf1 (l : Bool) (t : Sys2Proof.Addr) :
    Sys2Proof.Laws.TableRow.Statement (.bcf1 l t) := fun _ => Sys2Proof.encodeAddress_opcode _ _ l t

theorem Sys2Proof.Laws.TableRow.bzf0 (l : Bool) (t : Sys2Proof.Addr) :
    Sys2Proof.Laws.TableRow.Statement (.bzf0 l t) := fun _ => Sys2Proof.encodeAddress_opcode _ _ l t

theorem Sys2Proof.Laws.TableRow.bzf1 (l : Bool) (t : Sys2Proof.Addr) :
    Sys2Proof.Laws.TableRow.Statement (.bzf1 l t) := fun _ => Sys2Proof.encodeAddress_opcode _ _ l t

theorem Sys2Proof.Laws.TableRow.bc0 (l : Bool) (t : Sys2Proof.Addr) :
    Sys2Proof.Laws.TableRow.Statement (.bc0 l t) := fun _ => Sys2Proof.encodeAddress_opcode _ _ l t

theorem Sys2Proof.Laws.TableRow.bc1 (l : Bool) (t : Sys2Proof.Addr) :
    Sys2Proof.Laws.TableRow.Statement (.bc1 l t) := fun _ => Sys2Proof.encodeAddress_opcode _ _ l t

theorem Sys2Proof.Laws.TableRow.call (l : Bool) (t : Sys2Proof.Addr) :
    Sys2Proof.Laws.TableRow.Statement (.call l t) := fun _ => Sys2Proof.encodeAddress_opcode _ _ l t

theorem Sys2Proof.Laws.TableRow.jcall (l : Bool) (t : Sys2Proof.Addr) :
    Sys2Proof.Laws.TableRow.Statement (.jcall l t) := fun _ => Sys2Proof.encodeAddress_opcode _ _ l t

theorem Sys2Proof.Laws.TableRow.call0 (l : Bool) (t : Sys2Proof.Addr) :
    Sys2Proof.Laws.TableRow.Statement (.call0 l t) := fun _ => Sys2Proof.encodeAddress_opcode _ _ l t

theorem Sys2Proof.Laws.TableRow.call1 (l : Bool) (t : Sys2Proof.Addr) :
    Sys2Proof.Laws.TableRow.Statement (.call1 l t) := fun _ => Sys2Proof.encodeAddress_opcode _ _ l t

theorem Sys2Proof.Laws.TableRow.ret (f : Sys2Proof.Fields) :
    Sys2Proof.Laws.TableRow.Statement (.ret f) := fun _ => Sys2Proof.encodeFields_opcode _ f

theorem Sys2Proof.Laws.TableRow.jret (f : Sys2Proof.Fields) :
    Sys2Proof.Laws.TableRow.Statement (.jret f) := fun _ => Sys2Proof.encodeFields_opcode _ f

theorem Sys2Proof.Laws.TableRow.ret0 (f : Sys2Proof.Fields) :
    Sys2Proof.Laws.TableRow.Statement (.ret0 f) := fun _ => Sys2Proof.encodeFields_opcode _ f

theorem Sys2Proof.Laws.TableRow.ret1 (f : Sys2Proof.Fields) :
    Sys2Proof.Laws.TableRow.Statement (.ret1 f) := fun _ => Sys2Proof.encodeFields_opcode _ f

theorem Sys2Proof.Laws.TableRow.loop (f : Sys2Proof.Fields) :
    Sys2Proof.Laws.TableRow.Statement (.loop f) := fun h => Sys2Proof.encodeFields_opcode_copr _ f (Bool.not_eq_true' _ ▸ h)

theorem Sys2Proof.Laws.TableRow.wait (f : Sys2Proof.Fields) :
    Sys2Proof.Laws.TableRow.Statement (.wait f) := fun _ => Sys2Proof.encodeFields_opcode _ f

theorem Sys2Proof.Laws.TableRow.dReg (f : Sys2Proof.Fields) :
    Sys2Proof.Laws.TableRow.Statement (.dReg f) := fun _ => Sys2Proof.encodeFields_opcode _ f

theorem Sys2Proof.Laws.TableRow.undefined15 (f : Sys2Proof.Fields) :
    Sys2Proof.Laws.TableRow.Statement (.undefined15 f) := fun _ => Sys2Proof.encodeFields_opcode _ f

theorem Sys2Proof.Laws.TableRow.add (f : Sys2Proof.Fields) :
    Sys2Proof.Laws.TableRow.Statement (.add f) := fun _ => Sys2Proof.encodeFields_opcode _ f

theorem Sys2Proof.Laws.TableRow.and (f : Sys2Proof.Fields) :
    Sys2Proof.Laws.TableRow.Statement (.and f) := fun _ => Sys2Proof.encodeFields_opcode _ f

theorem Sys2Proof.Laws.TableRow.xor (f : Sys2Proof.Fields) :
    Sys2Proof.Laws.TableRow.Statement (.xor f) := fun _ => Sys2Proof.encodeFields_opcode _ f

theorem Sys2Proof.Laws.TableRow.or (f : Sys2Proof.Fields) :
    Sys2Proof.Laws.TableRow.Statement (.or f) := fun _ => Sys2Proof.encodeFields_opcode _ f

theorem Sys2Proof.Laws.TableRow.mov (f : Sys2Proof.Fields) :
    Sys2Proof.Laws.TableRow.Statement (.mov f) := fun _ => Sys2Proof.encodeFields_opcode _ f

theorem Sys2Proof.Laws.TableRow.regbank (f : Sys2Proof.Fields) :
    Sys2Proof.Laws.TableRow.Statement (.regbank f) := fun _ => Sys2Proof.encodeFields_opcode _ f

theorem Sys2Proof.Laws.TableRow.enable (f : Sys2Proof.Fields) :
    Sys2Proof.Laws.TableRow.Statement (.enable f) := fun _ => Sys2Proof.encodeFields_opcode _ f

theorem Sys2Proof.Laws.TableRow.disable (f : Sys2Proof.Fields) :
    Sys2Proof.Laws.TableRow.Statement (.disable f) := fun _ => Sys2Proof.encodeFields_opcode _ f

theorem Sys2Proof.Laws.TableRow.returni (f : Sys2Proof.Fields) :
    Sys2Proof.Laws.TableRow.Statement (.returni f) := fun _ => Sys2Proof.encodeFields_opcode _ f

theorem Sys2Proof.Laws.TableRow.popsp (f : Sys2Proof.Fields) :
    Sys2Proof.Laws.TableRow.Statement (.popsp f) := fun _ => Sys2Proof.encodeFields_opcode _ f

theorem Sys2Proof.Laws.TableRow.iostrobe (f : Sys2Proof.Fields) :
    Sys2Proof.Laws.TableRow.Statement (.iostrobe f) := fun _ => Sys2Proof.encodeFields_opcode _ f

theorem Sys2Proof.Laws.TableRow.outputk (f : Sys2Proof.Fields) :
    Sys2Proof.Laws.TableRow.Statement (.outputk f) := fun _ => Sys2Proof.encodeFields_opcode _ f

theorem Sys2Proof.Laws.TableRow.inputoutput (f : Sys2Proof.Fields) :
    Sys2Proof.Laws.TableRow.Statement (.inputoutput f) := fun _ => Sys2Proof.encodeFields_opcode _ f

theorem Sys2Proof.Laws.TableRow.input (f : Sys2Proof.Fields) :
    Sys2Proof.Laws.TableRow.Statement (.input f) := fun _ => Sys2Proof.encodeFields_opcode _ f

theorem Sys2Proof.Laws.TableRow.output (f : Sys2Proof.Fields) :
    Sys2Proof.Laws.TableRow.Statement (.output f) := fun _ => Sys2Proof.encodeFields_opcode _ f

theorem Sys2Proof.Laws.TableRow.undefined31 (f : Sys2Proof.Fields) :
    Sys2Proof.Laws.TableRow.Statement (.undefined31 f) := fun _ => Sys2Proof.encodeFields_opcode _ f

theorem Sys2Proof.Laws.TableRow.compressedUpper (k : BitVec 7) (p : Sys2Proof.Byte) :
    Sys2Proof.Laws.TableRow.Statement (.compressedUpper k p) := by
  intro _
  refine BitVec.eq_of_getLsbD_eq fun i hi => ?_
  rw [BitVec.getLsbD_and, Sys2Proof.compressedUpper_getLsbD _ k p i hi, Sys2Proof.Laws.TableRow.row]
  interval_cases i <;> simp

theorem Sys2Proof.Laws.TableRow.compressedLower (k : BitVec 7) (p : Sys2Proof.Byte) :
    Sys2Proof.Laws.TableRow.Statement (.compressedLower k p) := by
  intro _
  refine BitVec.eq_of_getLsbD_eq fun i hi => ?_
  rw [BitVec.getLsbD_and, Sys2Proof.compressedLower_getLsbD _ k p i hi, Sys2Proof.Laws.TableRow.row]
  interval_cases i <;> simp
end

