-- ==== Sys2Proof/Tests/Slice0.lean ====
section
/-!
SUPPORT. Tests. Expected results are the vectors of spec/95_test_vectors.md, named by their numbers (T, S),
or are worked out by hand from the rule named; none is the model's own answer. Every test runs one step.
The last part gives, for every statement that has hypotheses, states and operands that meet them.
-/

namespace Sys2Proof.Tests

open Sys2Proof.Machine Sys2Proof.Spec

/-! ## Well-formedness -/

/-- R65, R66: LOOP with COPR is no instruction. -/
theorem test_wf_refuses_loop_copr : (Instr.loop { Fields.bare with copr := true }).wf = false := by
  decide

/-- R66: the RETURN family may have COPR. -/
theorem test_wf_return_copr : (Instr.ret { Fields.bare with copr := true }).wf = true := by decide

/-! ## Decoding: words written out from 30_encoding.md R61 to R78 and the vectors -/

/-- R70, opcodes 0, 1, 14 to 21, with T3c, T3g, T3f, T7b, T3m, T7c, T1g, T2d, T2h, T2l, T5d, T6a. -/
theorem test_decode_alu :
    decode .bit16 false 0x00200000#32 = .ok (.nop { Fields.bare with bc := .cLsh }) ∧
    decode .bit16 false 0x00300C03#32 = .ok (.nop { Fields.bare with bc := .cRsh, addl := .n, low := 3 }) ∧
    decode .bit16 false 0x02000090#32 = .ok (.iX { Fields.bare with low := 0x90 }) ∧
    decode .bit16 false 0x1C080000#32 = .ok (.dReg { Fields.bare with dans := true }) ∧
    decode .bit16 false 0x1E000000#32 = .ok (.undefined15 Fields.bare) ∧
    decode .bit16 false 0x21001700#32 = .ok (.add { Fields.bare with
      aans := true, addr := .b, addl := .a, cfin := true, one := true }) ∧
    decode .bit16 false 0x22301400#32 = .ok (.and { Fields.bare with
      bc := .cRsh, addr := .b, addl := .a }) ∧
    decode .bit16 false 0x25005400#32 = .ok (.xor { Fields.bare with
      aans := true, inv := true, addr := .b, addl := .a }) ∧
    decode .bit16 false 0x26009400#32 = .ok (.or { Fields.bare with mul := true, addr := .b, addl := .a }) ∧
    decode .bit16 false 0x28040005#32 = .ok (.mov { Fields.bare with store := true, low := 5 }) ∧
    decode .bit16 false 0x2A000010#32 = .ok (.regbank { Fields.bare with low := 0x10 }) := by decide

/-- R64, R69, R70, opcodes 2 to 5, with T8, T9, T9m. -/
theorem test_decode_branches :
    decode .bit16 false 0x04000020#32 = .ok (.b false 0x20) ∧
    decode .bit16 false 0x04010020#32 = .ok (.jb false 0x20) ∧
    decode .bit16 false 0x06000020#32 = .ok (.bcf0 false 0x20) ∧
    decode .bit16 false 0x06010020#32 = .ok (.bcf1 false 0x20) ∧
    decode .bit16 false 0x08000020#32 = .ok (.bzf0 false 0x20) ∧
    decode .bit16 false 0x08010020#32 = .ok (.bzf1 false 0x20) ∧
    decode .bit16 false 0x0A000020#32 = .ok (.bc0 false 0x20) ∧
    decode .bit16 false 0x0A810020#32 = .ok (.bc1 true 0x20) := by decide

/-- R64, R69, R70, opcodes 6 to 13, with T10 to T13, S5, T20. -/
theorem test_decode_control :
    decode .bit16 false 0x0C000030#32 = .ok (.call false 0x30) ∧
    decode .bit16 false 0x0C010030#32 = .ok (.jcall false 0x30) ∧
    decode .bit16 false 0x0E000030#32 = .ok (.call0 false 0x30) ∧
    decode .bit16 false 0x0E010040#32 = .ok (.call1 false 0x40) ∧
    decode .bit16 false 0x51000C00#32 = .ok (.ret { Fields.bare with copr := true, aans := true, addl := .n }) ∧
    decode .bit16 false 0x12000000#32 = .ok (.jret Fields.bare) ∧
    decode .bit16 false 0x14000000#32 = .ok (.ret0 Fields.bare) ∧
    decode .bit16 false 0x16000000#32 = .ok (.ret1 Fields.bare) ∧
    decode .bit16 false 0x18B00004#32 = .ok (.loop { Fields.bare with bc := .bReg, low := 4 }) ∧
    decode .bit16 false 0x1B000500#32 = .ok (.wait { Fields.bare with
      aans := true, addl := .a, one := true }) := by decide

/-- R70, opcodes 22 to 31, with T18, T16b, T17, T7d. -/
theorem test_decode_system_io :
    decode .bit16 false 0x2C000000#32 = .ok (.enable Fields.bare) ∧
    decode .bit16 false 0x2E000000#32 = .ok (.disable Fields.bare) ∧
    decode .bit16 false 0x30000000#32 = .ok (.returni Fields.bare) ∧
    decode .bit16 false 0x32000000#32 = .ok (.popsp Fields.bare) ∧
    decode .bit16 false 0x34083100#32 = .ok (.iostrobe { Fields.bare with
      dans := true, addr := .d, one := true }) ∧
    decode .bit16 false 0x36000009#32 = .ok (.outputk { Fields.bare with low := 9 }) ∧
    decode .bit16 false 0x38180000#32 = .ok (.inputoutput { Fields.bare with bc := .cAns, dans := true }) ∧
    decode .bit16 false 0x3B000002#32 = .ok (.input { Fields.bare with aans := true, low := 2 }) ∧
    decode .bit16 false 0x3C000000#32 = .ok (.output Fields.bare) ∧
    decode .bit16 false 0x3E000000#32 = .ok (.undefined31 Fields.bare) := by decide

/-- R67, T16a: the two halves of 855A8533. -/
theorem test_decode_compressed :
    decode .bit16 false 0x855A8533#32 = .ok (.compressedUpper 5 0x5A) ∧
    decode .bit16 true 0x855A8533#32 = .ok (.compressedLower 5 0x33) := by decide

/-- R61 to R77, T5j, T5i, T4c, T4a, T2k: the address modes and shifts that stand nowhere else. -/
theorem test_decode_fields :
    decode .bit16 false 0x00031000#32 = .ok (.nop { Fields.bare with rmode := .regAddr, addr := .b }) ∧
    decode .bit16 false 0x00162100#32 = .ok (.nop { Fields.bare with
      bc := .cAns, store := true, rmode := .addr, addr := .c, one := true }) ∧
    decode .bit16 false 0x0005003E#32 = .ok (.nop { Fields.bare with
      store := true, rmode := .n, low := 0x3E }) ∧
    decode .bit16 false 0x01A07900#32 = .ok (.nop divideFields) ∧
    decode .bit16 false 0x00F09400#32 = .ok (.nop multiplyFields) ∧
    decode .bit16 false 0x22C01400#32 = .ok (.and { Fields.bare with
      bc := .bRsh, addr := .b, addl := .a }) := by decide

/-- R69: VARIANT_BIT at 17, and at 24: the word's other seven bits of 24 to 16 stay excluded (R64). -/
theorem test_decode_variant_bit :
    decode .bit17 false 0x04020010#32 = .ok (.jb false 0x10) ∧
    decode .bit17 false 0x04010010#32 = .error .fieldWithAddress ∧
    decode .bit24 false 0x0F800010#32 = .ok (.call1 true 0x10) := by decide

/-- T9n, T12d, T16d: words that are no instruction. -/
theorem test_decode_refuses :
    decode .bit16 false 0x05000020#32 = .error .fieldWithAddress ∧
    decode .bit16 false 0x58000001#32 = .error .coprInBranch ∧
    decode .bit16 true 0x85110000#32 = .error .lowHalfNotCompressed := by decide

/-! ## One step -/

/-- The state a result leads to. -/
def nextOf : Result → Option State
  | .next t => some t
  | .fault _ => none
  | .refused _ => none

/-- The refusal a result is. -/
def refusalOf : Result → Option Refusal
  | .refused r => some r
  | .next _ => none
  | .fault _ => none

/-- The fault a result is. -/
def faultOf : Result → Option Fault
  | .fault x => some x
  | .next _ => none
  | .refused _ => none

/-- The vectors' start: the instruction is at 0100, BANK is 0. -/
def start : State := { State.reset with pc := 0x100 }

/-- The same with the instruction at 0010. -/
def start10 : State := { State.reset with pc := 0x10 }

/-- One step on the word `w`. -/
def stepOn (s : State) (w : Nat) : Result := step (s.withFetchWord 32 w)

/-- A field after one step on the word `w`. -/
def after {α : Type} (s : State) (w : Nat) (field : State → α) : Option α :=
  (nextOf (stepOn s w)).map field

/-- T4b. -/
theorem test_nop_multiply_step :
    after { start with a := 0x12, b := 0x34, c := 0x03 } 0x00F09400 (fun t => (t.b, t.c))
      = some (0x23, 0x01) := by decide

/-- T4e. -/
theorem test_nop_divide_step :
    after { start with a := 0x80, b := 0x80, c := 0, d := 0xFF } 0x01A07900 (fun t => (t.a, t.b, t.c))
      = some (0x02, 0x00, 0x01) := by decide

/-- T1b. -/
theorem test_add_carry :
    after { start with a := 0xFF, b := 0x01 } 0x21001400 (fun t => (t.a, t.cf, t.pc))
      = some (0x00, true, 0x101) := by decide

/-- T1g. -/
theorem test_add_carry_in_is_one :
    after { start with a := 0x10, b := 0x20, cf := true } 0x21001700 (fun t => (t.a, t.cf))
      = some (0x31, false) := by decide

/-- T2j. -/
theorem test_and_shift :
    after { start with a := 0xFF, b := 0x0F, c := 0x02, zf := true } 0x22301400 (fun t => (t.c, t.zf))
      = some (0x81, false) := by decide

/-- T2k. -/
theorem test_and_refuses_b_shift : refusalOf (stepOn start 0x22C01400) = some .shiftUnderNonAdding := by
  decide

/-- T2d. -/
theorem test_xor_propagates_zero :
    after { start with a := 0xAA, b := 0xAA } 0x24001600 (fun t => t.zf) = some false := by decide

/-- T2h. -/
theorem test_xor_inverts :
    after { start with a := 0x0F, b := 0xFF, zf := true } 0x25005400 (fun t => (t.a, t.zf))
      = some (0x0F, false) := by decide

/-- T2f. -/
theorem test_or :
    after { start with a := 0x81, b := 0x18, zf := true } 0x27001400 (fun t => (t.a, t.zf))
      = some (0x99, false) := by decide

/-- T2l. -/
theorem test_or_refuses_mul : refusalOf (stepOn start 0x26009400) = some .mulUnderLogic := by decide

/-- T5d. -/
theorem test_mov_stores_reg :
    after { start with reg := 0x42, a := 0x77 } 0x28040005 (fun t => t.dmem.lookup 5)
      = some (some 0x42) := by decide

/-- T6a. -/
theorem test_regbank : after start 0x2A000010 (fun t => t.bank) = some 1 := by decide

/-- T6d. -/
theorem test_regbank_absent : refusalOf (stepOn start 0x2A000020) = some .bankNotImplemented := by
  decide

/-- T7b. -/
theorem test_iX :
    after { start with dmem := Memory.store resetRegisters 9 0x21 } 0x02000090 (fun t => (t.i, t.reg))
      = some (9, 0x21) := by decide

/-- T3m. -/
theorem test_dReg :
    after { start with reg := 0x42, d := 0x11 } 0x1C080000 (fun t => t.d) = some 0x42 := by decide

/-- T3n. -/
theorem test_dReg_without_bit19 :
    after { start with reg := 0x42, d := 0x11 } 0x1C000000 (fun t => t.d) = some 0x11 := by decide

/-- T7c, T7d. -/
theorem test_undefined_opcodes :
    refusalOf (stepOn start 0x1E000000) = some .undefinedOpcode ∧
    refusalOf (stepOn start 0x3E000000) = some .undefinedOpcode := by decide

/-- T8. -/
theorem test_b :
    after start10 0x04000020 (fun t => (t.pc, t.pend)) = some (0x11, some (.one 0x20)) := by decide

/-- T8. -/
theorem test_jb :
    after start10 0x04010020 (fun t => (t.pc, t.pend)) = some (0x20, none) := by decide

/-- T14. -/
theorem test_jb_indirect :
    after { start10 with a := 0x12, b := 0x34 } 0x04010001 (fun t => (t.pc, t.ind))
      = some (1, true) := by decide

/-- T9a, T9b. -/
theorem test_bcf0 :
    after start10 0x06000020 (fun t => t.pend) = some (some (.one 0x20)) ∧
    after { start10 with cf := true } 0x06000020 (fun t => (t.pc, t.pend)) = some (0x11, none) := by
  decide

/-- T9c, T9d. -/
theorem test_bcf1 :
    after { start10 with cf := true } 0x06010020 (fun t => t.pend) = some (some (.one 0x20)) ∧
    after start10 0x06010020 (fun t => (t.pc, t.pend)) = some (0x11, none) := by decide

/-- T9e, T9f. -/
theorem test_bzf0 :
    after start10 0x08000020 (fun t => t.pend) = some (some (.one 0x20)) ∧
    after { start10 with zf := true } 0x08000020 (fun t => (t.pc, t.pend)) = some (0x11, none) := by
  decide

/-- T9g, T9h. -/
theorem test_bzf1 :
    after { start10 with zf := true } 0x08010020 (fun t => t.pend) = some (some (.one 0x20)) ∧
    after start10 0x08010020 (fun t => (t.pc, t.pend)) = some (0x11, none) := by decide

/-- T9i, T9j. -/
theorem test_bc0 :
    after { start10 with c := 0xFE } 0x0A000020 (fun t => t.pend) = some (some (.one 0x20)) ∧
    after { start10 with c := 0x01 } 0x0A000020 (fun t => (t.pc, t.pend)) = some (0x11, none) := by
  decide

/-- T9m. -/
theorem test_bc1_lsh :
    after { start10 with b := 0x41, c := 0x81 } 0x0A810020 (fun t => (t.b, t.pend))
      = some (0x83, some (.one 0x20)) := by decide

/-- T10. -/
theorem test_call :
    after start10 0x0C000030 (fun t => (t.stk, t.pend)) = some ([0x12], some (.one 0x30)) := by decide

/-- T14. -/
theorem test_call_to_one : refusalOf (stepOn start10 0x0C000001) = some .callToAddressOne := by decide

/-- T10. -/
theorem test_jcall :
    after start10 0x0C010030 (fun t => (t.stk, t.pc)) = some ([0x11], 0x30) := by decide

/-- T15c. -/
theorem test_jcall_overflow :
    refusalOf (stepOn { start10 with stk := [0x11, 0x11, 0x11, 0x11] } 0x0C010010)
      = some .stackOverflow := by decide

/-- T11. -/
theorem test_call0 :
    after start10 0x0E000030 (fun t => (t.stk, t.pend)) = some ([0x12], some (.one 0x30)) ∧
    after { start10 with zf := true } 0x0E000030 (fun t => (t.stk, t.pc)) = some ([], 0x11) := by
  decide

/-- T11, with ZF = 1 at 0012. -/
theorem test_call1 :
    after { start10 with pc := 0x12, zf := true } 0x0E010040 (fun t => (t.stk, t.pend))
      = some ([0x14], some (.one 0x40)) := by decide

/-- S5. -/
theorem test_return_constant :
    after { start10 with pc := 0x20, stk := [0x12] } 0x11000C5A (fun t => (t.a, t.stk, t.pend))
      = some (0x5A, [], some (.one 0x12)) := by decide

/-- T15d. -/
theorem test_return_underflow : refusalOf (stepOn start10 0x10000000) = some .stackUnderflow := by decide

/-- T10. -/
theorem test_jreturn :
    after { start10 with pc := 0x31, stk := [0x11] } 0x12000000 (fun t => (t.pc, t.stk, t.pend))
      = some (0x11, [], none) := by decide

/-- T11. -/
theorem test_return0 :
    after { start10 with pc := 0x33, stk := [0x12] } 0x14000000 (fun t => t.pend)
      = some (some (.one 0x12)) := by decide

/-- T11. -/
theorem test_return1_not_taken :
    after { start10 with pc := 0x31, stk := [0x12] } 0x16000000 (fun t => (t.pc, t.stk, t.pend))
      = some (0x32, [0x12], none) := by decide

/-- T12b. -/
theorem test_loop :
    after { start10 with pc := 0x11, i := 2 } 0x18000003 (fun t => (t.pc, t.i, t.pend))
      = some (0x12, 1, some (.two 0x10)) := by decide

/-- T12a. -/
theorem test_loop_ends :
    after { start10 with pc := 0x11 } 0x18000003 (fun t => (t.pc, t.i, t.pend))
      = some (0x12, 0, none) := by decide

/-- T13. -/
theorem test_wait :
    after { start10 with i := 3 } 0x1B000500 (fun t => (t.pc, t.i, t.a)) = some (0x10, 2, 1) := by
  decide

/-- T15b. -/
theorem test_wait_in_slot :
    refusalOf (stepOn { start10 with pc := 0x11, pend := some (.one 0x20) } 0x1A000000)
      = some .transferInSlot := by decide

/-- T18a at 0010. -/
theorem test_enable : after start10 0x2C000000 (fun t => t.ie) = some true := by decide

/-- T18j. -/
theorem test_enable_in_handler :
    refusalOf (stepOn { start10 with ins := true } 0x2C000000) = some .enableInHandler := by decide

/-- T18f at 0010. -/
theorem test_disable : after { start10 with ie := true } 0x2E000000 (fun t => t.ie) = some false := by
  decide

/-- A handler at 0041 that interrupted 0012. -/
def inHandler : State :=
  { State.reset with pc := 0x41, ins := true, ie := true, ira := 0x12, pmem := [(0x42, 0)] }

/-- T18a at 0041. -/
theorem test_returni :
    after inHandler 0x30000000 (fun t => (t.pc, t.ins, t.gr)) = some (0x12, false, true) := by decide

/-- T18d at its first RETURNI. -/
theorem test_returni_chains :
    after { inHandler with irq0 := true } 0x30000000 (fun t => (t.pc, t.pend, t.ins))
      = some (0x42, some (.one 2), true) := by decide

/-- T16b. -/
theorem test_popsp :
    after { start with pc := 0x2C, stk := [0x100], hl := true, cip := some 1 } 0x32000000
      (fun t => (t.stk, t.hl, t.cip)) = some ([], false, none) := by decide

/-- T16a. -/
theorem test_compressed_upper :
    after start 0x855A0000 (fun t => (t.co, t.stk, t.hl, t.pc)) = some (0x5A, [0x100], true, 0x2C) := by
  decide

/-- T16a. -/
theorem test_compressed_lower :
    after { start with hl := true } 0x855A8533 (fun t => (t.co, t.stk, t.hl, t.pc))
      = some (0x33, [0x101], false, 0x2C) := by decide

/-- T16c. -/
theorem test_compressed_nested :
    refusalOf (stepOn { start with pc := 0x2C, stk := [0x100], hl := true, cip := some 1 } 0x85008500)
      = some .compressedNested := by decide

/-- T17b. -/
theorem test_iostrobe :
    after { start with b := 0x06, d := 0x11 } 0x34083100 (fun t => (t.d, t.trace))
      = some (0x12, [.ioStrobe 0x06 0x11]) := by decide

/-- T17c. -/
theorem test_output :
    after { start with b := 0x05, d := 0x99 } 0x3C000000 (fun t => t.trace)
      = some [.writeStrobe 0x05 0x99] := by decide

/-- T17d. -/
theorem test_outputk :
    after { start with b := 0x05, d := 0x99 } 0x36000009 (fun t => (t.d, t.trace))
      = some (0x99, [.writeStrobeK 0x05 0x09]) := by decide

/-- T17e, with OUTPUTK_IMM = refuse, its default. -/
theorem test_outputk_refuses :
    refusalOf (stepOn { start with b := 0x05 } 0x36000020) = some .outputkImmediate := by decide

/-- T17e, with OUTPUTK_IMM = n8. -/
theorem test_outputk_whole_byte :
    after { start with b := 0x05, cfg := { resetConfig with outputkImm := .n8 } } 0x36000020
      (fun t => t.trace) = some [.writeStrobeK 0x05 0x20] := by decide

/-- T17f. -/
theorem test_input_port :
    after { start with b := 0x03, d := 0x11, portIn := [0x41, 0x42] } 0x3A100000
      (fun t => (t.c, t.trace, t.portIn)) = some (0x41, [.readStrobe 0x03 0x11 (some 0x41)], [0x42]) := by
  decide

/-- T17h. -/
theorem test_input_stack :
    after { start with stk := [0x1234, 0x0040] } 0x3B000002 (fun t => (t.a, t.trace))
      = some (0x12, [.readStrobe 0 0 none]) := by decide

/-- T17l. -/
theorem test_inputoutput :
    after { start with b := 0x06, d := 0x10, portIn := [0x20] } 0x38180000
      (fun t => (t.c, t.d, t.trace)) = some (0x20, 0x20, [.readWriteStrobe 0x06 0x10 (some 0x20)]) := by
  decide

/-! ### Operations -/

/-- R105, ShiftIn: the carry out of FF + 01 (the default), and a fixed bit, enter C under `C=LSH`. -/
theorem test_shift_in :
    after { start with a := 0xFF, b := 0x01, c := 0x40 } 0x00201400 (fun t => t.c) = some 0x81 ∧
    after { start with
      a := 0xFF, b := 0x01, c := 0x40, cfg := { resetConfig with shiftIn := .fixed false } } 0x00201400
      (fun t => t.c) = some 0x80 := by decide

/-- R99, DivStep: T4e's divide step, with DivStep giving ANS = 55 and q = 0 there: right input FF inverted. -/
theorem test_div_step_listed :
    after { start with
      a := 0x80, b := 0x80, c := 0, d := 0xFF
      cfg := { resetConfig with divStep := [(⟨0x80, 0x80, 0x00, true⟩, ⟨0x55, false⟩)] } } 0x01A07900
      (fun t => (t.a, t.b, t.c)) = some (0x55, 0x00, 0x00) := by decide

/-- T5i: the store goes to the address before the increment. -/
theorem test_store_by_pointer :
    after { start with a := 0xEE, c := 0x40 } 0x00162100 (fun t => (t.dmem.lookup 0x40, t.c))
      = some (some 0xEE, 0x41) := by decide

/-- T5g: no such address. -/
theorem test_scratchpad_bound :
    faultOf (stepOn { start with cfg := { resetConfig with spadBytes := 32 } } 0x0001003E)
      = some .dataAddress := by decide

/-- T15e: a fetch past program memory. -/
theorem test_fetch_bound :
    faultOf (stepOn { start with cfg := { resetConfig with pmemWords := 0x100 } } 0)
      = some .fetchOutside := by decide

/-- T18b: the entry at step 4. -/
theorem test_interrupt_entry :
    after { start with pc := 0x12, ie := true, seq := true, irq0 := true, irq1 := true } 0x01000500
      (fun t => (t.pc, t.ira, t.irav, t.ins, t.a)) = some (2, 0x12, some 0x12, true, 0) := by decide

/-- T18h, with IRQ_IN_SLOT = refuse, its default. -/
theorem test_interrupt_in_transfer :
    refusalOf (stepOn { start with pend := some (.one 0x20), ie := true, irq0 := true } 0)
      = some .irqInTransfer := by decide

/-! ## Witnesses: for each statement with hypotheses, states and operands that meet them -/

/-- A word with the single-bit fields of R78 set. -/
def bitsWord : Fields :=
  { Fields.bare with aans := true, store := true, mul := true, inv := true, cfin := true, one := true }

/-- `ADDR=C;R(ADDR)` and `ADDR=B;R(REGADDR)`, `R(N)` with N = 20. -/
def pointerFields : Fields := { Fields.bare with rmode := .addr, addr := .c }
/-- See `pointerFields`. -/
def wideFields : Fields := { Fields.bare with rmode := .regAddr, addr := .b }
/-- See `pointerFields`. -/
def immediateFields : Fields := { Fields.bare with rmode := .n, low := 0x20 }

/-- `MUL;ADDL=DIVA`. -/
def mulDiva : Fields := { Fields.bare with mul := true, addl := .diva }
/-- `ADDR=C;R(ADDR);NOT`. -/
def pointerNot : Fields := { pointerFields with inv := true }
/-- `B=RSH`. -/
def rightShift : Fields := { Fields.bare with bc := .bRsh }
/-- The low byte alone. -/
def lowOnly (v : Byte) : Fields := { Fields.bare with low := v }

/-- A state whose scratchpad has 32 bytes. -/
def smallPad : State := { start with cfg := { resetConfig with spadBytes := 32 } }

/-- A compressed instruction in progress at 0104, called from 0100. -/
def inRoutine : State := { start with pc := 0x104, stk := [0x100], hl := true, cip := some 1 }

/-- A request on line 0 in a slot before 0020, where IRQ_IN_SLOT is `defer`. -/
def deferred : State :=
  { start with
    irq0 := true, ie := true, pend := some (.one 0x20), pmem := [(0x100, 0)]
    cfg := { resetConfig with irqInSlot := .defer } }

theorem witness_DecodeOfEncode :
    (Instr.loop { Fields.bare with low := 0xFF }).wf = true ∧
      (Instr.compressedLower 0x7F 0xFF).wf = true := by decide

theorem witness_NormalWordReencodes :
    (0x0A810020#32).getLsbD 31 = false ∧ decode .bit16 true 0x0A810020#32 = .ok (.bc1 true 0x20) := by decide

theorem witness_SingleBitFields :
    decode .bit16 false 0x2104C300#32 = .ok (.add bitsWord) ∧ fieldsOf (.add bitsWord) = some bitsWord := by
  decide

/-- The opcodes 2 and 7, and each of the three outcomes. -/
theorem witness_AddressFormExclusions :
    ([0x04000001#32, 0x0E81FFFF, 0x4E010000, 0x05000000, 0x0E100000].all fun w =>
      !w.getLsbD 31 && decide (2 ≤ (w.extractLsb' 25 5).toNat ∧ (w.extractLsb' 25 5).toNat ≤ 7))
      = true := by decide

/-- At 0 with IND = 0. -/
theorem witness_StepRunsDecodedInstruction_first :
    let s := { State.reset with pmem := [(0, 0x20000000)] }
    ¬ Accept s ∧ s.pc.toNat < s.cfg.pmemWords ∧ s.pmem.lookup s.pc.toNat = some 0x20000000 ∧
      s.ind = false ∧ s.pc ≠ 1 ∧ decode s.cfg.variantBit s.hl 0x20000000 = .ok (.add Fields.bare) := by decide

/-- At the last word of program memory. -/
theorem witness_StepRunsDecodedInstruction_last :
    let s := { State.reset with pc := 0xFFFF, pmem := [(0xFFFF, 0x3C000000)] }
    ¬ Accept s ∧ s.pc.toNat < s.cfg.pmemWords ∧ s.pmem.lookup s.pc.toNat = some 0x3C000000 ∧
      s.ind = false ∧ s.pc ≠ 1 ∧ decode s.cfg.variantBit s.hl 0x3C000000 = .ok (.output Fields.bare) := by and_intros <;> decide

/-- At address 1 with IND = 1. -/
theorem witness_StepRunsDecodedInstruction_indirect :
    let s := { State.reset with pc := 1, ind := true, pmem := [(1, 0)] }
    ¬ Accept s ∧ s.pc.toNat < s.cfg.pmemWords ∧ s.pmem.lookup s.pc.toNat = some 0 ∧
      s.ind = true ∧ decode s.cfg.variantBit s.hl 0 = .ok (.nop Fields.bare) := by decide

theorem witness_FetchStops_outside :
    let s := { start with cfg := { resetConfig with pmemWords := 0x100 } }
    ¬ Accept s ∧ s.cfg.pmemWords ≤ s.pc.toNat := by decide

theorem witness_FetchStops_inside :
    (let s := { start with cfg := { resetConfig with pmemWords := 0x101 } }
     ¬ Accept s ∧ s.pc.toNat < s.cfg.pmemWords ∧ s.pmem.lookup s.pc.toNat = none) ∧
    (let s := { State.reset with pc := 1, pmem := [(1, 0)] }
     ¬ Accept s ∧ s.pc.toNat < s.cfg.pmemWords ∧ s.pmem.lookup s.pc.toNat = some 0 ∧
       s.ind = false ∧ s.pc = 1) ∧
    (let s := { State.reset with pc := 1, ind := true, pmem := [(1, 0x20000000)] }
     ¬ Accept s ∧ s.pc.toNat < s.cfg.pmemWords ∧
       s.pmem.lookup s.pc.toNat = some 0x20000000 ∧ s.ind = true ∧ (0x20000000#32) ≠ 0) := by decide

/-- A word for each reason to be no instruction. -/
theorem witness_FetchStops_noInstruction :
    (let s := { start with pmem := [(0x100, 0x05000020)] }
     ¬ Accept s ∧ s.pc.toNat < s.cfg.pmemWords ∧ s.pmem.lookup s.pc.toNat = some 0x05000020 ∧
       s.ind = false ∧ s.pc ≠ 1 ∧
       decode s.cfg.variantBit s.hl 0x05000020#32 = .error .fieldWithAddress) ∧
    (let s := { start with pmem := [(0x100, 0x58000001)] }
     ¬ Accept s ∧ s.pc.toNat < s.cfg.pmemWords ∧ s.pmem.lookup s.pc.toNat = some 0x58000001 ∧
       s.ind = false ∧ s.pc ≠ 1 ∧
       decode s.cfg.variantBit s.hl 0x58000001#32 = .error .coprInBranch) ∧
    (let s := { start with hl := true, pmem := [(0x100, 0x85110000)] }
     ¬ Accept s ∧ s.pc.toNat < s.cfg.pmemWords ∧ s.pmem.lookup s.pc.toNat = some 0x85110000 ∧
       s.ind = false ∧ s.pc ≠ 1 ∧
       decode s.cfg.variantBit s.hl 0x85110000#32 = .error .lowHalfNotCompressed) := by
  and_intros <;> decide

/-- With a compressed instruction in progress and a known readable return address. -/
theorem witness_StepKeepsInvariant :
    let s := { inRoutine with irav := some 0, pmem := [(0x104, 0)] }
    s.Inv ∧ ∃ t, step s = .next t :=
  ⟨{ config := by decide, bank := by decide, stack := by decide, dataForm := by decide,
     dataSize := by decide, programForm := by decide, programSize := by decide, indirect := by decide,
     compressed := fun d h => by obtain rfl := Option.some.inj h; decide
     grace := by decide, sequential := by decide
     readable := fun v h => by obtain rfl := Option.some.inj h; decide }, _, rfl⟩

theorem witness_StepKeepsProgram : ∃ t, stepOn start 0x28040005 = .next t := ⟨_, rfl⟩

/-- With an event and an answer taken, and without. -/
theorem witness_StepEmitsAtMostOneEvent :
    (∃ t, stepOn { start with portIn := [0x41] } 0x3A100000 = .next t) ∧
      ∃ t, stepOn start 0 = .next t := ⟨⟨_, rfl⟩, _, rfl⟩

theorem witness_RegisterA :
    (decode .bit16 false 0x2104C300#32 = .ok (.add bitsWord) ∧ fieldsOf (.add bitsWord) = some bitsWord) ∧
    (∃ t, exec (.add { bitsWord with store := false }) start = .next t) ∧
    (∃ t, exec (.b true 0xFFFF) start = .next t) ∧ fieldsOf (.b true 0xFFFF) = none :=
  ⟨by decide, ⟨_, rfl⟩, ⟨_, rfl⟩, rfl⟩

theorem witness_RegisterB :
    (∃ t, exec (.nop { Fields.bare with bc := .bReg }) start = .next t) ∧
    (∃ t, exec (.bc1 true 0x20) start = .next t) ∧ lshOf (.bc1 true 0x20) = some true ∧
    (∃ t, exec (.compressedUpper 0 0) start = .next t) ∧ fieldsOf (.compressedUpper 0 0) = none ∧
    lshOf (.compressedUpper 0 0) = none := ⟨⟨_, rfl⟩, ⟨_, rfl⟩, rfl, ⟨_, rfl⟩, rfl, rfl⟩

theorem witness_RegisterC :
    (∃ t, exec (.nop { Fields.bare with bc := .cReg }) start = .next t) ∧
    (∃ t, exec (.jb false 0) start = .next t) ∧ fieldsOf (.jb false 0) = none :=
  ⟨⟨_, rfl⟩, ⟨_, rfl⟩, rfl⟩

/-- D=REG with bit 19, another opcode with it, and a word without it. -/
theorem witness_RegisterD :
    decode .bit16 false 0x1C080000#32 = .ok (.dReg { Fields.bare with dans := true }) ∧
    (∃ t, exec (.dReg { Fields.bare with dans := true }) start = .next t) ∧
    (∃ t, exec (.add { Fields.bare with dans := true }) start = .next t) ∧
    (∃ t, exec (.dReg Fields.bare) start = .next t) ∧
    (∃ t, exec (.compressedLower 1 2) start = .next t) :=
  ⟨by decide, ⟨_, rfl⟩, ⟨_, rfl⟩, ⟨_, rfl⟩, _, rfl⟩

theorem witness_CarryFlag :
    (∃ t, exec (.add Fields.bare) start = .next t) ∧ (∃ t, exec (.mov Fields.bare) start = .next t) ∧
      ∀ f, Instr.mov Fields.bare ≠ .add f := ⟨⟨_, rfl⟩, ⟨_, rfl⟩, fun _ => by simp⟩

theorem witness_ZeroFlag :
    (∃ t, exec (.xor { Fields.bare with cfin := true }) start = .next t) ∧
    (∃ t, exec (.and Fields.bare) start = .next t) ∧ isLogic (.and Fields.bare) = true ∧
    (∃ t, exec (.add Fields.bare) start = .next t) ∧ isLogic (.add Fields.bare) = false :=
  ⟨⟨_, rfl⟩, ⟨_, rfl⟩, rfl, ⟨_, rfl⟩, rfl⟩

/-- A store by MOV to the last scratchpad byte, the byte beside it, and a word that has no fields. -/
theorem witness_DataMemory :
    let f := { Fields.bare with store := true, rmode := .n, low := 0xFF }
    (∃ t, exec (.mov f) start = .next t) ∧ StoresTo f start 0xFF ∧ ¬ StoresTo f start 0xFE ∧
      (∃ t, exec (.call false 0) start = .next t) ∧ fieldsOf (.call false 0) = none :=
  ⟨⟨_, rfl⟩, ⟨rfl, by decide⟩, fun h => absurd h.2 (by decide), ⟨_, rfl⟩, rfl⟩

/-- A word that reads R1 and stores to R2, the byte known. -/
theorem witness_RegPipeline :
    let f := { Fields.bare with store := true, low := 0x12 }
    (∃ t, exec (.output f) start = .next t) ∧ fieldsOf (.output f) = some f ∧ NotPassing start ∧
      ¬ StoresTo f start (readAddress f start) ∧
      start.dmem.lookup (readAddress f start) = some 0 :=
  ⟨⟨_, rfl⟩, rfl, fun h => absurd h.1 (by decide), fun h => absurd h.2 (by decide), by decide⟩

/-- I = 0 and I = 15. -/
theorem witness_LoopCounter :
    (∃ t, exec (.iX { Fields.bare with low := 0xF0 }) start = .next t) ∧
    (∃ t, exec (.loop Fields.bare) start = .next t) ∧
    (∃ t, exec (.wait Fields.bare) { start with i := 15 } = .next t) ∧
    (∃ t, exec (.popsp Fields.bare) inRoutine = .next t) := ⟨⟨_, rfl⟩, ⟨_, rfl⟩, ⟨_, rfl⟩, _, rfl⟩

theorem witness_ControlStateWriters :
    (∃ t, exec (.regbank Fields.bare) start = .next t) ∧ (∃ t, exec (.enable Fields.bare) start = .next t) ∧
    (∃ t, exec (.returni Fields.bare) inHandler = .next t) ∧
    (∃ t, exec (.popsp Fields.bare) inRoutine = .next t) ∧
    (∃ t, exec (.compressedUpper 0 0) start = .next t) :=
  ⟨⟨_, rfl⟩, ⟨_, rfl⟩, ⟨_, rfl⟩, ⟨_, rfl⟩, _, rfl⟩

/-- No change, a pop of the last entry, a push of the last that fits. -/
theorem witness_StackWriters :
    (∃ t, exec (.nop Fields.bare) start = .next t) ∧
    (∃ t, exec (.ret Fields.bare) { start with stk := [0] } = .next t) ∧
    (∃ t, exec (.call false 0) { start with stk := [0, 0, 0] } = .next t) :=
  ⟨⟨_, rfl⟩, ⟨_, rfl⟩, _, rfl⟩

theorem witness_EnableStateIsNotRead :
    (∃ t, exec (.enable Fields.bare) start = .next t) ∧
    (∃ t, exec (.disable Fields.bare) { start with ie := true } = .next t) ∧
    (∀ f, Instr.add Fields.bare ≠ .enable f) ∧ ∀ f, Instr.add Fields.bare ≠ .disable f :=
  ⟨⟨_, rfl⟩, ⟨_, rfl⟩, fun _ => by simp, fun _ => by simp⟩

theorem witness_ImmediateAddressMode : immediateFields.rmode = .n := rfl

theorem witness_OtherAddressModes :
    Fields.bare.rmode = .xz ∧ pointerFields.rmode = .addr ∧ wideFields.rmode = .regAddr :=
  ⟨rfl, rfl, rfl⟩

/-- The first address outside in each mode. -/
theorem witness_DataAddressOutside :
    (∃ t, exec (.nop immediateFields) start = .next t) ∧
    (FieldsOk (.nop immediateFields) immediateFields ∧ ¬ AddressOk immediateFields smallPad) ∧
    (FieldsOk (.mov pointerFields) pointerFields ∧
      ¬ AddressOk pointerFields { smallPad with c := 0x20 }) ∧
    (FieldsOk (.popsp wideFields) wideFields ∧ ¬ AddressOk wideFields { start with reg := 1 }) ∧
    (FieldsOk (.add Fields.bare) Fields.bare ∧ ¬ AddressOk Fields.bare { smallPad with bank := 2 }) :=
  ⟨⟨_, rfl⟩, by decide, by decide, by decide, by decide⟩

/-- MUL with DIVA, NOT with R(ADDR), B=RSH where ANS is not the sum. -/
theorem witness_ExcludedFieldsRefused :
    (fieldsOf (.nop mulDiva) = some mulDiva ∧ ¬ FieldsOk (.nop mulDiva) mulDiva) ∧
    (fieldsOf (.ret pointerNot) = some pointerNot ∧ ¬ FieldsOk (.ret pointerNot) pointerNot) ∧
    (fieldsOf (.and rightShift) = some rightShift ∧ ¬ FieldsOk (.and rightShift) rightShift ∧
      ¬ FieldsOk (.input rightShift) rightShift) := by and_intros <;> decide

theorem witness_MultiplyStep : ∃ t, exec (.nop multiplyFields) start = .next t := ⟨_, rfl⟩

theorem witness_DivideStep :
    let s := { start with a := 0xFE, d := 0xFF }
    s.cfg.divStep = [] ∧ (∃ t, exec (.nop divideFields) s = .next t) ∧ s.a.toNat < s.d.toNat := ⟨rfl, ⟨_, rfl⟩, by decide⟩

theorem witness_WaitMultiplies :
    let s := { start with i := 7 }
    s.pend = none ∧ s.ind = false ∧ s.i = 7 ∧ AddressOk multiplyFields s := by decide

/-- D = 0 and D = 255. -/
theorem witness_WaitDivides :
    ∀ d ∈ [0x00#8, 0xFF#8], let s := { start with i := 15, d := d }
    s.cfg.divStep = [] ∧ s.pend = none ∧ s.ind = false ∧ s.i = 15 ∧ s.a = 0 ∧ AddressOk divideFields s := by decide

theorem witness_AluWordsComplete :
    ∀ i ∈ [Instr.nop wideFields, .dReg wideFields, .add wideFields, .and wideFields, .xor wideFields,
      .or wideFields, .mov wideFields],
      FieldsOk i wideFields ∧ AddressOk wideFields { start with b := 0xFF } := by decide

theorem witness_LoadCounterCompletes :
    FieldsOk (.iX Fields.bare) Fields.bare ∧ AddressOk Fields.bare start := by decide

/-- Bank 1, the last one, and bank 2. -/
theorem witness_RegbankCompletes :
    (let f := { Fields.bare with low := 0x10 }
     f.store = false ∧ low f start / 16 < start.cfg.numBanks ∧ FieldsOk (.regbank f) f ∧
       AddressOk f start) ∧
    (let f := { Fields.bare with low := 0x20 }
     f.store = false ∧ start.cfg.numBanks ≤ low f start / 16) ∧
    { Fields.bare with store := true }.store = true := by decide

theorem witness_JumpsComplete : start.pend = none := rfl

theorem witness_ConditionalBranchesComplete :
    start.pend = none ∧ ∀ l t (s : State),
      (Instr.bcf0 l t, !s.cf) ∈ [(Instr.bcf0 l t, !s.cf), (.bcf1 l t, s.cf), (.bzf0 l t, !s.zf),
        (.bzf1 l t, s.zf), (.bc0 l t, decide (s.c.toNat % 2 = 0)),
        (.bc1 l t, decide (s.c.toNat % 2 = 1))] := ⟨rfl, fun _ _ _ => by simp⟩

/-- One free place on the stack. -/
theorem witness_CallsComplete :
    let s := { start with stk := [0, 0, 0] }
    s.pend = none ∧ (0#16) ≠ 1 ∧ s.stk.length < s.cfg.stackDepth := by decide

/-- CALL0 taken and not taken. -/
theorem witness_ConditionalCallsComplete :
    (Instr.call0 false 0, true) ∈
      [(Instr.call0 false 0, !start.zf), (.call1 false 0, start.zf)] ∧
    (Instr.call1 false 0, false) ∈
      [(Instr.call0 false 0, !start.zf), (.call1 false 0, start.zf)] ∧
    start.pend = none ∧ (0#16) ≠ 1 ∧ start.stk.length < start.cfg.stackDepth := by decide

theorem witness_ReturnsComplete :
    let s := { start with stk := [2] }
    s.pend = none ∧ s.stk = 2 :: [] ∧ (2#16) ≠ 1 ∧ AddressOk Fields.bare s ∧
      FieldsOk (.ret Fields.bare) Fields.bare ∧ FieldsOk (.jret Fields.bare) Fields.bare := by decide

/-- One return address, 0, on the stack. -/
def calledFrom0 : State := { start with stk := [0] }

/-- RETURN0 taken, RETURN1 not taken. -/
theorem witness_ConditionalReturnsComplete :
    (Instr.ret0 Fields.bare, true) ∈
      [(Instr.ret0 Fields.bare, !calledFrom0.zf), (.ret1 Fields.bare, calledFrom0.zf)] ∧
    (Instr.ret1 Fields.bare, false) ∈
      [(Instr.ret0 Fields.bare, !calledFrom0.zf), (.ret1 Fields.bare, calledFrom0.zf)] ∧
    calledFrom0.pend = none ∧ FieldsOk (.ret0 Fields.bare) Fields.bare ∧
    FieldsOk (.ret1 Fields.bare) Fields.bare ∧ AddressOk Fields.bare calledFrom0 ∧
    calledFrom0.stk = 0 :: [] ∧ (0#16) ≠ 1 := by and_intros <;> decide

/-- A state at `pc` with I = `i`. -/
def looping (pc : Addr) (i : Nibble) : State := { State.reset with pc := pc, i := i }

/-- What LOOP with the distance `rel` needs of a state, for the target `target`. -/
abbrev LoopHypotheses (rel : Byte) (s : State) (target : Addr) : Prop :=
  target.toNat = (s.pc.toNat + 2 + 65536 - (lowOnly rel).low.toNat) % 65536 ∧ s.pend = none ∧
    (lowOnly rel).copr = false ∧ FieldsOk (.loop (lowOnly rel)) (lowOnly rel) ∧
    AddressOk (lowOnly rel) s

/-- REL = 255, a target below 0, a target of 1, and I = 15, 1, 0. -/
theorem witness_LoopCompletes :
    (LoopHypotheses 0xFF (looping 0x100 15) 0x03 ∧ (looping 0x100 15).i ≠ 0) ∧
    (LoopHypotheses 0x03 (looping 0 1) 0xFFFF ∧ (looping 0 1).i ≠ 0) ∧
    (LoopHypotheses 0x03 (looping 2 1) 1 ∧ (looping 2 1).i ≠ 0) ∧
    (LoopHypotheses 0x00 (looping 2 0) 4 ∧ (looping 2 0).i = 0) := by and_intros <;> decide

theorem witness_WaitCompletes :
    start.pend = none ∧ FieldsOk (.wait Fields.bare) Fields.bare ∧ AddressOk Fields.bare start ∧
      start.i = 0 ∧ { start with i := 1 }.i ≠ 0 := by decide

theorem witness_EnableDisableComplete :
    start.ins = false ∧ AddressOk Fields.bare start ∧ FieldsOk (.enable Fields.bare) Fields.bare ∧
      FieldsOk (.disable Fields.bare) Fields.bare ∧ inHandler.ins = true := by decide

/-- With line 0 at 0 and at 1, outside a handler, in a slot, without the NOP, and with a 0 past the end of
program memory. -/
theorem witness_ReturniCompletes :
    (inHandler.ins = true ∧ inHandler.pend = none ∧ nextAddr inHandler < inHandler.cfg.pmemWords ∧
      inHandler.pmem.lookup (nextAddr inHandler) = some 0 ∧
      FieldsOk (.returni Fields.bare) Fields.bare ∧ AddressOk Fields.bare inHandler ∧
      inHandler.irq0 = false) ∧
    { inHandler with irq0 := true }.irq0 = true ∧ start.ins = false ∧
    { inHandler with pend := some (.two 0) }.pend ≠ none ∧
    { inHandler with pmem := [] }.pmem.lookup (nextAddr inHandler) ≠ some 0 ∧
    (let s := { inHandler with cfg := { resetConfig with pmemWords := 0x42 } }
     s.ins = true ∧ s.pend = none ∧ s.cfg.pmemWords ≤ nextAddr s ∧
       refusalOf (exec (.returni Fields.bare) s) = some .noNopAfterReturni) := by decide

theorem witness_PopspCompletes :
    inRoutine.stk = 0x100 :: [] ∧ FieldsOk (.popsp Fields.bare) Fields.bare ∧
      AddressOk Fields.bare inRoutine := by decide

/-- One free place on the stack, a slot, an indirect jump, a handler, a routine, a full stack. -/
theorem witness_CompressedHalvesComplete :
    (let s := { start with stk := [0, 0, 0] }
     s.pend = none ∧ s.ind = false ∧ s.ins = false ∧ s.cip = none ∧
       s.stk.length < s.cfg.stackDepth) ∧
    { start with pend := some (.one 0) }.pend ≠ none ∧ { start with ind := true }.ind = true ∧
    (inHandler.pend = none ∧ inHandler.ind = false ∧ inHandler.ins = true) ∧
    (inRoutine.pend = none ∧ inRoutine.ind = false ∧ inRoutine.ins = false ∧ inRoutine.cip ≠ none) ∧
    (let s := { start with stk := [0, 0, 0, 0] }
     s.pend = none ∧ s.ind = false ∧ s.ins = false ∧ s.cip = none ∧
       s.cfg.stackDepth ≤ s.stk.length) := by decide

theorem witness_StrobeAndOutputComplete :
    AddressOk Fields.bare start ∧ FieldsOk (.iostrobe Fields.bare) Fields.bare ∧
      FieldsOk (.output Fields.bare) Fields.bare := by decide

/-- `start` with another OUTPUTK_IMM. -/
def withImmediate (x : OutputkImm) : State := { start with cfg := { resetConfig with outputkImm := x } }

/-- Immediates of 15 and 16, under each OUTPUTK_IMM. -/
theorem witness_OutputkCompletes :
    (FieldsOk (.outputk (lowOnly 15)) (lowOnly 15) ∧ AddressOk (lowOnly 15) start ∧
      low (lowOnly 15) start < 16) ∧
    (∀ x ∈ [OutputkImm.n8, .z4, .refuse],
      FieldsOk (.outputk (lowOnly 16)) (lowOnly 16) ∧ AddressOk (lowOnly 16) (withImmediate x) ∧
        16 ≤ low (lowOnly 16) (withImmediate x) ∧ (withImmediate x).cfg.outputkImm = x) := by and_intros <;> decide

/-- `A=ANS` and a selector. -/
def selector (z : Byte) : Fields := { Fields.bare with low := z, aans := true }

/-- Selectors 0 to 4 with one entry on the stack, 5 and 15, and 1 and 2 with none. -/
theorem witness_InputsComplete :
    (∀ z ∈ [0x00#8, 0x01, 0x02, 0x03, 0x04],
      low (selector z) calledFrom0 % 16 ≤ 4 ∧ calledFrom0.stk ≠ [] ∧
        AddressOk (selector z) calledFrom0 ∧ FieldsOk (.input (selector z)) (selector z) ∧
        FieldsOk (.inputoutput (selector z)) (selector z)) ∧
    (5 ≤ low (selector 0x05) start % 16 ∧ 5 ≤ low (selector 0x0F) start % 16) ∧
    (low (selector 0x01) start % 16 = 1 ∧ low (selector 0x02) start % 16 = 2 ∧ start.stk = []) := by
  and_intros <;> decide

/-- An instruction that may not stand in a slot, and one that does. -/
theorem witness_DelaySlots :
    let s := { start with pend := some (.two 1) }
    s.pend = some (.two 1) ∧ notInSlot (.bcf1 false 0) = true ∧ ∃ t, exec (.nop Fields.bare) s = .next t :=
  ⟨rfl, rfl, _, rfl⟩

/-- One return address, 1, on the stack. -/
def calledFrom1 : State := { start with stk := [1] }

/-- A full stack, address 1 with a full and a free stack, an empty stack, and 1 on top of the stack: RETURN0
with ZF = 0, RETURN1 with ZF = 1. -/
theorem witness_CallAndReturnStops :
    (let s := { start with stk := [0, 0, 0, 0] }
     s.pend = none ∧ (0#16) ≠ 1 ∧ s.cfg.stackDepth ≤ s.stk.length ∧ s.zf = false) ∧
    { start with zf := true }.zf = true ∧
    (start.pend = none ∧ start.stk = [] ∧ start.zf = false ∧ AddressOk Fields.bare start) ∧
    (calledFrom1.pend = none ∧ calledFrom1.stk = 1 :: [] ∧ calledFrom1.zf = false ∧
      AddressOk Fields.bare calledFrom1) ∧
    (∀ s ∈ [{ start with zf := true }, { calledFrom1 with zf := true }],
      s.zf = true ∧ s.pend = none ∧ AddressOk Fields.bare s) ∧
    (∀ i ∈ [Instr.ret Fields.bare, .jret Fields.bare, .popsp Fields.bare, .ret0 Fields.bare,
      .ret1 Fields.bare], FieldsOk i Fields.bare) := by and_intros <;> decide

/-- Line 0, and line 1 alone; after a fall-through and not. -/
theorem witness_InterruptEntry :
    ∀ s ∈ [{ start with irq0 := true, ie := true, seq := true }, { start with irq1 := true, ie := true }],
      Accept s ∧ s.pend = none ∧ s.ind = false := by decide

/-- In a slot under `refuse`; in a slot under `defer`, with the slot loaded and not, the request still there
after it. -/
theorem witness_RequestInsideTransfer :
    (let s := { start with irq0 := true, ie := true, pend := some (.one 0x20) }
     Accept s ∧ s.pend ≠ none ∧ s.cfg.irqInSlot = .refuse) ∧
    (Accept deferred ∧ deferred.pend ≠ none ∧ deferred.cfg.irqInSlot = .defer ∧
      ∃ t, step deferred = .next t ∧ Accept t ∧ t.pend = none ∧ t.ind = false) ∧
    (let s := { deferred with pmem := [], pend := none, ind := true, pc := 1 }
     Accept s ∧ s.ind = true ∧ s.cfg.irqInSlot = .defer ∧
       faultOf (step s) = some .programWordNotLoaded) :=
  ⟨by decide, ⟨by decide, by decide, rfl, _, rfl, by decide, by decide, by decide⟩, by decide⟩

/-- Line 1 is held at 1, so the second step enters again. -/
theorem witness_OneInstructionAfterReturni :
    let s := { inHandler with pmem := [(0x12, 0), (0x42, 0)] }
    ∃ t u, exec (.returni Fields.bare) s = .next t ∧ s.irq0 = false ∧
      step { t with irq0 := false, irq1 := true, irqNext := [] } = .next u ∧
      (u.irq0 = true ∨ u.irq1 = true) ∧ u.ie = true ∧ u.pend = none ∧ u.ind = false :=
  ⟨_, _, rfl, rfl, rfl, by decide, by decide, by decide, by decide⟩

theorem witness_IndirectJump :
    let s := { start with a := 0x12, b := 0x34, pmem := [(1, 0)] }
    ∃ t, exec (.jb false 1) s = .next t ∧ 1 < t.cfg.pmemWords ∧ t.pmem.lookup 1 = some 0 ∧ ¬ Accept t ∧
      AddressOk Fields.bare t := ⟨_, rfl, by decide, by decide, by decide, by decide⟩

theorem witness_EndedRunSpins :
    let s := { start with pmem := [(0x100, 0x04010100)] }
    EndsNormally 0x100 s ∧ (0x100#16) ≠ 1 ∧ (0x100#16).toNat < s.cfg.pmemWords ∧ s.irq0 = false ∧
      s.irq1 = false ∧ s.irqNext = [] :=
  ⟨⟨rfl, rfl, rfl, rfl, by decide⟩, by decide, by decide, rfl, rfl, rfl⟩

/-- One of each shape. -/
theorem witness_CycleCounts :
    (∃ t, exec (.jb false 0) start = .next t) ∧ (∃ t, exec (.jret Fields.bare) inRoutine = .next t) ∧
    (∃ t, exec (.compressedLower 0 0) start = .next t) ∧ (∃ t, exec (.wait Fields.bare) start = .next t) ∧
    start.ind = false := ⟨⟨_, rfl⟩, ⟨_, rfl⟩, ⟨_, rfl⟩, ⟨_, rfl⟩, rfl⟩

end Sys2Proof.Tests
end

section
/-!
The reset state is sound. Its data memory is one block of consecutive bytes; the laws of such a block
stand first, for any start, length and value.
-/

namespace Sys2Proof.Machine

variable {w : Nat}

/-- A block of consecutive addresses is in rising order from its start on. -/
theorem risesFrom_block (v : BitVec w) (n lo : Nat) :
    Memory.risesFrom lo ((List.range' lo n).map fun k => (k, v)) = true := by
  induction n generalizing lo with
  | zero => rfl
  | succ n ih => simp [List.range'_succ, Memory.risesFrom, ih]

/-- A block lies below every bound that its end does not pass. -/
theorem below_block (v : BitVec w) {n lo bound : Nat} (h : lo + n ≤ bound) :
    Memory.below bound ((List.range' lo n).map fun k => (k, v)) = true := by
  simp only [Memory.below, List.all_map, List.all_eq_true, List.mem_range'_1, Function.comp_apply,
    decide_eq_true_eq]
  omega

/-- The 32 register bytes of 10_state.md R12 are a block at address 0. -/
theorem resetRegisters_eq_block :
    resetRegisters = (List.range' 0 32).map fun k => (k, 0#8) := by
  rw [resetRegisters, List.range_eq_range']

theorem resetRegisters_wf : Memory.wf resetRegisters = true := by
  rw [resetRegisters_eq_block]
  exact risesFrom_block 0#8 32 0

theorem resetRegisters_below {bound : Nat} (h : 32 ≤ bound) :
    Memory.below bound resetRegisters = true := by
  rw [resetRegisters_eq_block]
  exact below_block 0#8 (by omega)

/-- The defaults are legal values of the parameters (00_scope.md R6). -/
theorem resetConfig_legal : resetConfig.Legal := by decide

/-- Settles O10. The parameters are legal, so the two banks of registers fit into data memory, bank 0 is
implemented and the empty stack is within its depth; no word of program memory is listed; and no transfer,
no interrupt and no compressed instruction is in progress, so the relations about those hold of nothing. -/
theorem resetIsSound : Obligations.ResetIsSound where
  config := resetConfig_legal
  bank := by decide
  stack := Nat.zero_le _
  dataForm := resetRegisters_wf
  dataSize := resetRegisters_below (by decide)
  programForm := rfl
  programSize := rfl
  indirect := nofun
  compressed := nofun
  grace := nofun
  sequential := nofun
  readable := nofun

end Sys2Proof.Machine
end

section
/-!
The readings of an operand over whole numbers (`Sys2Proof.Spec`) are those of the model: the low byte, X and Z,
the register ADDR selects, and the address of each mode. With them, fields and addresses that the second
reading allows are allowed by the datapath step.
-/

namespace Sys2Proof.Machine

open Spec

theorem lowByte_toNat (f : Fields) (s : State) : (lowByte f s).toNat = low f s := by
  unfold lowByte low
  split <;> rfl

theorem xNum_toNat (f : Fields) (s : State) : (xNum f s).toNat = low f s / 16 := by
  have hlt := (lowByte f s).isLt
  rw [xNum, BitVec.extractLsb'_toNat, Nat.shiftRight_eq_div_pow, ← lowByte_toNat]
  omega

theorem zNum_toNat (f : Fields) (s : State) : (zNum f s).toNat = low f s % 16 := by
  rw [zNum, BitVec.extractLsb'_toNat, Nat.shiftRight_zero, ← lowByte_toNat]

theorem rightSelected_toNat (f : Fields) (s : State) : (rightSelected f s).toNat = rightReg f s := by
  unfold rightSelected rightReg
  cases f.addr <;> rfl

/-- Two bytes side by side, as under `R(REGADDR)` (20_memory.md R46). -/
theorem toNat_append_byte (hi lo : Byte) : (hi ++ lo).toNat = 256 * hi.toNat + lo.toNat := by
  rw [BitVec.toNat_append, ← Nat.shiftLeft_add_eq_or_of_lt lo.isLt, Nat.shiftLeft_eq, Nat.mul_comm]

/-- The default mode (20_memory.md R43). -/
theorem dataAddress_xz {f : Fields} (s : State) (n : Nibble) (h : f.rmode = .xz) :
    dataAddress f s n = 16 * s.bank.toNat + n.toNat := by
  simp [dataAddress, registerAddress, h]

/-- `R(N)` (20_memory.md R44). -/
theorem dataAddress_n {f : Fields} (s : State) (n : Nibble) (h : f.rmode = .n) :
    dataAddress f s n = low f s := by
  simp [dataAddress, lowByte_toNat, h]

/-- `R(ADDR)` (20_memory.md R45). -/
theorem dataAddress_addr {f : Fields} (s : State) (n : Nibble) (h : f.rmode = .addr) :
    dataAddress f s n = rightReg f s := by
  simp only [dataAddress, rightSelected_toNat, h]

/-- `R(REGADDR)` (20_memory.md R46). -/
theorem dataAddress_regAddr {f : Fields} (s : State) (n : Nibble) (h : f.rmode = .regAddr) :
    dataAddress f s n = 256 * s.reg.toNat + rightReg f s := by
  simp only [dataAddress, toNat_append_byte, rightSelected_toNat, h]

/-- Settles O27. One address for the read and the write in each mode but the default one, where X and Z pick
the register; the bank offset is the same for both. -/
theorem otherAddressModes : Obligations.OtherAddressModes := by
  intro f s
  refine ⟨fun h => ?_, fun h => ?_, fun h => ?_⟩
  · rw [readAddress, writeAddress, dataAddress_xz _ _ h, dataAddress_xz _ _ h, xNum_toNat, zNum_toNat]
    exact ⟨rfl, rfl⟩
  · exact ⟨dataAddress_addr s _ h, dataAddress_addr s _ h⟩
  · exact ⟨dataAddress_regAddr s _ h, dataAddress_regAddr s _ h⟩

/-- The addresses the second reading of 20_memory.md R47 allows are the model's. -/
theorem addressImplemented_iff (f : Fields) (s : State) :
    addressImplemented f s = true ↔ AddressOk f s := by
  unfold addressImplemented AddressOk
  cases h : f.rmode with
  | xz => simp
  | n => simp [readAddress, dataAddress_n s _ h]
  | addr => simp [readAddress, dataAddress_addr s _ h]
  | regAddr => simp [readAddress, dataAddress_regAddr s _ h]

/-- `B=RSH` by the four bits of the code (30_encoding.md R72). -/
theorem bSel_eq_three (f : Fields) : bSel f = 3 ↔ f.bc.bSrc = .rsh := by
  unfold bSel
  cases f.bc <;> decide

/-- `C=LSH` by the four bits of the code (30_encoding.md R72). -/
theorem cSel_eq_two (f : Fields) : cSel f = 2 ↔ f.bc.cSrc = .lsh := by
  unfold cSel
  cases f.bc <;> decide

/-- `C=RSH` by the four bits of the code (30_encoding.md R72). -/
theorem cSel_eq_three (f : Fields) : cSel f = 3 ↔ f.bc.cSrc = .rsh := by
  unfold cSel
  cases f.bc <;> decide

/-- One test of a chain of refusals is passed when its condition fails. -/
theorem ite_some_eq_none {α : Type} {p : Prop} [Decidable p] {r : α} {rest : Option α} :
    (if p then some r else rest) = none ↔ ¬ p ∧ rest = none := by
  by_cases h : p <;> simp [h]

/-- The field combinations the second reading of 40_datapath_fields.md R93, R96 and 20_memory.md R45 allows for
an instruction are the model's under the datapath step that is that instruction's. -/
theorem fieldRefusal_eq_none_iff {k : AluOp} {i : Instr} (f : Fields) (hl : k.isLogic = isLogic i)
    (hi : k.isInput = isInput i) : fieldRefusal k f = none ↔ FieldsOk i f := by
  simp only [FieldsOk, fieldRefusal, ite_some_eq_none, ne_eq, bSel_eq_three, cSel_eq_two, cSel_eq_three,
    hl, hi, ← Bool.not_eq_true]
  grind

/-- A word whose fields and addresses the second reading allows does its datapath step. -/
theorem withDatapath_of_allowed {k : AluOp} {i : Instr} {f : Fields} {s : State} (rest : State → Result)
    (hl : k.isLogic = isLogic i) (hi : k.isInput = isInput i) (hf : FieldsOk i f) (ha : AddressOk f s) :
    withDatapath k f s rest = rest (datapath k f s) :=
  withDatapath_ok ((fieldRefusal_eq_none_iff f hl hi).mpr hf) ((addressImplemented_iff f s).mpr ha)

end Sys2Proof.Machine
end

section
/-!
What an instruction that completes leaves, register by register: `exec` read across its arms. One definition
for each register that opcodes write on their own, `effectOf` for all of them beside the fields' effects, and
`exec_next`, which ties them to `exec` once for all instructions. The statements about one register look at
that register's definition only.
-/

namespace Sys2Proof.Machine

open Spec

/-- What the opcode of a word with fields makes of the datapath (40_datapath_fields.md R96). -/
def aluOf (i : Instr) (s : State) : AluOp :=
  match i with
  | .add _ => .add
  | .and _ => .and
  | .xor _ => .xor
  | .or _ => .or
  | .dReg _ => .dReg
  | .mov _ => .mov
  | .input f | .inputoutput f =>
    match inByte s (zNum f s) with
    | .ok v => .input v
    | .error _ => .plain
  | _ => .plain

/-- The effects of the fields: the datapath step, the one field of an address word, or none. -/
def fieldsEffect (i : Instr) (s : State) : State :=
  match fieldsOf i, lshOf i with
  | some f, _ => datapath (aluOf i s) f s
  | none, some lsh => addressDatapath lsh s
  | none, none => s

/-- I after the instruction (41_opcodes_alu_misc.md R131; 42_control_transfer.md R171, R173). -/
def counterAfter (i : Instr) (s : State) : Nibble :=
  match i with
  | .iX f => xNum f s
  | .loop _ | .wait _ => if s.i = 0 then s.i else s.i - 1
  | _ => s.i

/-- BANK after the instruction (41_opcodes_alu_misc.md R140). -/
def bankAfter (i : Instr) (s : State) : Nibble :=
  match i with
  | .regbank f => xNum f s
  | _ => s.bank

/-- IE after the instruction (60_exceptions.md R232, R233). -/
def enableAfter (i : Instr) (s : State) : Bool :=
  match i with
  | .enable _ => true
  | .disable _ => false
  | _ => s.ie

/-- CO after the instruction (43_compressed.md R192, R193). -/
def operandAfter (i : Instr) (s : State) : Byte :=
  match i with
  | .compressedUpper _ p | .compressedLower _ p => p
  | _ => s.co

/-- HL after the instruction (43_compressed.md R192, R193, R197). -/
def halfAfter (i : Instr) (s : State) : Bool :=
  match i with
  | .compressedUpper _ _ => true
  | .compressedLower _ _ | .popsp _ => false
  | _ => s.hl

/-- The return address the instruction pushes (42_control_transfer.md R162 to R165; 43_compressed.md R192,
R193). -/
def pushOf (i : Instr) (s : State) : Option Addr :=
  match i with
  | .call _ _ => some (callReturn s)
  | .jcall _ _ => some (jcallReturn s)
  | .call0 _ _ => if s.zf then none else some (callReturn s)
  | .call1 _ _ => if s.zf then some (callReturn s) else none
  | .compressedUpper _ _ => some s.pc
  | .compressedLower _ _ => some (s.pc + 1)
  | _ => none

/-- The instruction pops (42_control_transfer.md R166 to R169; 43_compressed.md R197). -/
def popsIn (i : Instr) (s : State) : Bool :=
  match i with
  | .ret _ | .jret _ | .popsp _ => true
  | .ret0 _ => !s.zf
  | .ret1 _ => s.zf
  | _ => false

/-- STK after the instruction (10_state.md R24). -/
def stackAfter (i : Instr) (s : State) : List Addr :=
  if popsIn i s then s.stk.tail
  else
    match pushOf i s with
    | some v => v :: s.stk
    | none => s.stk

/-- CIP after the instruction (43_compressed.md R192, R193, R195, R197). -/
def cipAfter (i : Instr) (s : State) : Option Nat :=
  match i with
  | .compressedUpper _ _ | .compressedLower _ _ => some (s.stk.length + 1)
  | .popsp _ => none
  | _ => if popsIn i s then cipAfterPop s.cip s.stk.tail.length else s.cip

/-- The byte an input takes from the port (44_io_opcodes.md R205, R212). -/
def portByte (f : Fields) (s : State) : Option Byte :=
  match inByte s (zNum f s) with
  | .ok v => takenByte (zNum f s) v
  | .error _ => none

/-- The event the instruction emits (44_io_opcodes.md R207 to R214). -/
def eventOf (i : Instr) (s : State) : Option IoEvent :=
  match i with
  | .iostrobe _ => some (.ioStrobe (xPortId s) (xOutPort s))
  | .output _ => some (.writeStrobe (xPortId s) (xOutPort s))
  | .outputk f => (outputkData f s).map (.writeStrobeK (xPortId s))
  | .input f => some (.readStrobe (xPortId s) (xOutPort s) (portByte f s))
  | .inputoutput f => some (.readWriteStrobe (xPortId s) (xOutPort s) (portByte f s))
  | _ => none

/-- The trace after the instruction (44_io_opcodes.md R205). -/
def traceAfter (i : Instr) (s : State) : List IoEvent :=
  match eventOf i s with
  | some e => s.trace ++ [e]
  | none => s.trace

/-- The environment's answers after the instruction (44_io_opcodes.md R215). -/
def answersAfter (i : Instr) (s : State) : List Byte :=
  match i with
  | .input f | .inputoutput f => portAfter s (zNum f s)
  | _ => s.portIn

/-- REG as far as the opcode has a say in it (40_datapath_fields.md R112 case (d); log 11). -/
def regAfter (i : Instr) (s : State) : Byte :=
  match i with
  | .regbank _ | .returni _ => Config.any8 s.draws .reg
  | _ => (fieldsEffect i s).reg

/-- The state the effects of an instruction make, before the control part of the step. -/
def effectOf (i : Instr) (s : State) : State :=
  { fieldsEffect i s with
    i := counterAfter i s
    bank := bankAfter i s
    ie := enableAfter i s
    co := operandAfter i s
    hl := halfAfter i s
    stk := stackAfter i s
    cip := cipAfter i s
    trace := traceAfter i s
    portIn := answersAfter i s
    reg := regAfter i s }

/-- What holds where an instruction completes, and the state it leads to. -/
structure Completes (i : Instr) (s t : State) : Prop where
  /-- The fields have a meaning, and the data addresses exist. -/
  fields : ∀ f, fieldsOf i = some f →
    fieldRefusal (aluOf i s) f = none ∧ addressImplemented f s = true
  /-- A push found room. -/
  room : (pushOf i s).isSome = true → s.stk.length < s.cfg.stackDepth
  /-- A pop found an entry. -/
  entry : popsIn i s = true → s.stk ≠ []
  /-- A bank that is newly selected is implemented. -/
  bank : bankAfter i s = s.bank ∨ (bankAfter i s).toNat < s.cfg.numBanks
  /-- The effects are done, and control goes on; RETURNI may return from the interrupt. -/
  result : (∃ tr, t = finish s tr (effectOf i s)) ∨
    ((∃ f, i = .returni f) ∧ t = interruptReturn s (effectOf i s))

/-- Only address words and compressed words push. -/
theorem pushOf_of_fields {i : Instr} {f : Fields} (s : State) (hi : fieldsOf i = some f) :
    pushOf i s = none := by
  unfold pushOf
  split
  case h_7 => rfl
  all_goals cases hi

/-- A word with fields that keeps BANK, and after which control goes on. -/
theorem Completes.ofWord {i : Instr} {f : Fields} {s t : State} (hi : fieldsOf i = some f)
    (hf : fieldRefusal (aluOf i s) f = none) (ha : addressImplemented f s = true)
    (hpop : popsIn i s = true → s.stk ≠ []) (hbank : bankAfter i s = s.bank)
    (ht : ∃ tr, t = finish s tr (effectOf i s)) : Completes i s t where
  fields g hg := by
    obtain rfl := Option.some.inj (hi.symm.trans hg)
    exact ⟨hf, ha⟩
  room hpush := by simp [pushOf_of_fields s hi] at hpush
  entry := hpop
  bank := .inl hbank
  result := .inl ht

/-- An address word has no fields, does not pop, and writes nothing of its own but the return stack. -/
theorem effectOf_of_lsh {i : Instr} {lsh : Bool} (s : State) (hi : lshOf i = some lsh) :
    fieldsOf i = none ∧ popsIn i s = false ∧ bankAfter i s = s.bank ∧
      effectOf i s = { addressDatapath lsh s with stk := stackAfter i s } := by
  cases i <;> cases hi <;> exact ⟨rfl, rfl, rfl, rfl⟩

theorem callTaken_completes {i : Instr} {lsh : Bool} {s t : State} {ra target : Addr} {tr : Transfer}
    (hi : lshOf i = some lsh) (hpush : pushOf i s = some ra)
    (h : callTaken lsh s ra target tr = .next t) : Completes i s t := by
  obtain ⟨hfields, hpop, hbank, heffect⟩ := effectOf_of_lsh s hi
  obtain ⟨-, hroom, ht⟩ := callTaken_next h
  refine ⟨by simp [hfields], fun _ => hroom, by simp [hpop], .inl hbank, .inl ⟨tr, ?_⟩⟩
  simp only [heffect, stackAfter, hpop, hpush]
  exact ht

/-- A branch word, and a call that is not made. -/
theorem branch_completes {i : Instr} {lsh : Bool} {s t : State} {tr : Transfer}
    (hi : lshOf i = some lsh) (hpush : pushOf i s = none)
    (ht : t = finish s tr (addressDatapath lsh s)) : Completes i s t := by
  obtain ⟨hfields, hpop, hbank, heffect⟩ := effectOf_of_lsh s hi
  refine ⟨by simp [hfields], by simp [hpush], by simp [hpop], .inl hbank, .inl ⟨tr, ?_⟩⟩
  simp only [heffect, stackAfter, hpop, hpush]
  exact ht

/-- A return writes nothing of its own but the return stack, with CIP. -/
theorem effectOf_of_return {i : Instr} {f : Fields} (s : State)
    (hi : i ∈ [Instr.ret f, .jret f, .ret0 f, .ret1 f]) :
    fieldsOf i = some f ∧ aluOf i s = .plain ∧ bankAfter i s = s.bank ∧
      effectOf i s = { datapath .plain f s with
        stk := stackAfter i s
        cip := if popsIn i s then cipAfterPop s.cip s.stk.tail.length else s.cip } := by
  fin_cases hi <;> exact ⟨rfl, rfl, rfl, rfl⟩

theorem returnTaken_completes {i : Instr} {f : Fields} {s t : State} {mk : Addr → Transfer}
    (hi : i ∈ [Instr.ret f, .jret f, .ret0 f, .ret1 f]) (hpop : popsIn i s = true)
    (hf : fieldRefusal .plain f = none) (ha : addressImplemented f s = true)
    (h : returnTaken s (datapath .plain f s) mk = .next t) : Completes i s t := by
  obtain ⟨hfields, halu, hbank, heffect⟩ := effectOf_of_return s hi
  obtain ⟨v, stk, hs, -, ht⟩ := returnTaken_next h
  refine .ofWord hfields (halu ▸ hf) ha (fun _ => by simp [hs]) hbank ⟨mk v, ?_⟩
  simp only [heffect, stackAfter, hpop, hs]
  exact ht

theorem returnNotTaken_completes {i : Instr} {f : Fields} {s t : State}
    (hi : i ∈ [Instr.ret f, .jret f, .ret0 f, .ret1 f]) (hpop : popsIn i s = false)
    (hf : fieldRefusal .plain f = none) (ha : addressImplemented f s = true)
    (ht : t = finish s .none (datapath .plain f s)) : Completes i s t := by
  obtain ⟨hfields, halu, hbank, heffect⟩ := effectOf_of_return s hi
  refine .ofWord hfields (halu ▸ hf) ha (by simp [hpop]) hbank ⟨.none, ?_⟩
  simp only [heffect, stackAfter, hpop, pushOf_of_fields s hfields]
  exact ht

/-! The instructions whose effects depend on the state, one lemma each. -/

theorem execRegbank_completes {f : Fields} {s t : State} (h : execRegbank f s = .next t) :
    Completes (.regbank f) s t := by
  unfold execRegbank at h
  split_ifs at h with hst hb
  obtain ⟨hf, ha, ht⟩ := plainWord_next h
  exact ⟨by rintro _ ⟨⟩; exact ⟨hf, ha⟩, nofun, nofun, .inr (not_le.mp hb), .inl ⟨_, ht⟩⟩

theorem execReturni_completes {f : Fields} {s t : State} (h : execReturni f s = .next t) :
    Completes (.returni f) s t := by
  unfold execReturni at h
  split at h
  · cases h
  obtain ⟨-, h⟩ := outsideSlot_next h
  split at h
  · obtain ⟨hf, ha, h⟩ := withDatapath_next h
    refine ⟨by rintro _ ⟨⟩; exact ⟨hf, ha⟩, nofun, nofun, .inl rfl, ?_⟩
    split at h
    · exact .inl ⟨_, (Host.Outcome.next.inj h).symm⟩
    · exact .inr ⟨⟨f, rfl⟩, (Host.Outcome.next.inj h).symm⟩
  · cases h

theorem execOutputk_completes {f : Fields} {s t : State} (h : execOutputk f s = .next t) :
    Completes (.outputk f) s t := by
  unfold execOutputk at h
  split at h
  · cases h
  · next v hv =>
    obtain ⟨hf, ha, h⟩ := withDatapath_next h
    refine .ofWord rfl hf ha nofun rfl ⟨.none, ?_⟩
    simp only [effectOf, traceAfter, eventOf, hv]
    exact (Host.Outcome.next.inj h).symm

theorem execCall0_completes {lsh : Bool} {g : Addr} {s t : State} (h : execCall0 lsh g s = .next t) :
    Completes (.call0 lsh g) s t := by
  obtain ⟨-, h⟩ := outsideSlot_next h
  split at h <;> rename_i hz
  · exact branch_completes rfl (by simp [pushOf, hz]) (Host.Outcome.next.inj h).symm
  · exact callTaken_completes rfl (by simp [pushOf, hz]) h

theorem execCall1_completes {lsh : Bool} {g : Addr} {s t : State} (h : execCall1 lsh g s = .next t) :
    Completes (.call1 lsh g) s t := by
  obtain ⟨-, h⟩ := outsideSlot_next h
  split at h <;> rename_i hz
  · exact callTaken_completes rfl (by simp [pushOf, hz]) h
  · exact branch_completes rfl (by simp [pushOf, hz]) (Host.Outcome.next.inj h).symm

theorem execRet0_completes {f : Fields} {s t : State} (h : execRet0 f s = .next t) :
    Completes (.ret0 f) s t := by
  obtain ⟨-, h⟩ := outsideSlot_next h
  obtain ⟨hf, ha, h⟩ := withDatapath_next h
  split at h <;> rename_i hz
  · exact returnNotTaken_completes (by simp) (by simp [popsIn, hz]) hf ha (Host.Outcome.next.inj h).symm
  · exact returnTaken_completes (by simp) (by simp [popsIn, hz]) hf ha h

theorem execRet1_completes {f : Fields} {s t : State} (h : execRet1 f s = .next t) :
    Completes (.ret1 f) s t := by
  obtain ⟨-, h⟩ := outsideSlot_next h
  obtain ⟨hf, ha, h⟩ := withDatapath_next h
  split at h <;> rename_i hz
  · exact returnTaken_completes (by simp) hz hf ha h
  · exact returnNotTaken_completes (by simp) (Bool.eq_false_iff.mpr hz) hf ha
      (Host.Outcome.next.inj h).symm

theorem execPopsp_completes {f : Fields} {s t : State} (h : execPopsp f s = .next t) :
    Completes (.popsp f) s t := by
  unfold execPopsp at h
  obtain ⟨hf, ha, h⟩ := withDatapath_next h
  obtain ⟨v, stk, hs, h⟩ := popThen_next h
  refine .ofWord rfl hf ha (fun _ => by simp [hs]) rfl ⟨.none, ?_⟩
  simp only [effectOf, stackAfter, popsIn, hs]
  exact (Host.Outcome.next.inj h).symm

theorem execLoop_completes {f : Fields} {s t : State} (h : execLoop f s = .next t) :
    Completes (.loop f) s t := by
  obtain ⟨-, h⟩ := outsideSlot_next h
  split at h
  · cases h
  obtain ⟨hf, ha, h⟩ := withDatapath_next h
  refine .ofWord rfl hf ha nofun rfl ?_
  split_ifs at h with hi
  · simp only [effectOf, counterAfter, if_pos hi]
    exact ⟨_, (Host.Outcome.next.inj h).symm⟩
  · simp only [effectOf, counterAfter, if_neg hi]
    exact ⟨_, (Host.Outcome.next.inj h).symm⟩

theorem execWait_completes {f : Fields} {s t : State} (h : execWait f s = .next t) :
    Completes (.wait f) s t := by
  obtain ⟨-, h⟩ := outsideSlot_next h
  obtain ⟨hf, ha, h⟩ := withDatapath_next h
  refine .ofWord rfl hf ha nofun rfl ?_
  split_ifs at h with hi
  · simp only [effectOf, counterAfter, if_pos hi]
    exact ⟨_, (Host.Outcome.next.inj h).symm⟩
  · simp only [effectOf, counterAfter, if_neg hi]
    exact ⟨_, (Host.Outcome.next.inj h).symm⟩

/-- An instruction that completes does what `effectOf` says, and then control goes on. -/
theorem exec_next {i : Instr} {s t : State} (h : exec i s = .next t) : Completes i s t := by
  cases i with
  | nop f | dReg f | add f | and f | xor f | or f | mov f =>
    obtain ⟨hf, ha, ht⟩ := plainWord_next h
    exact .ofWord rfl hf ha nofun rfl ⟨_, ht⟩
  | iX f =>
    obtain ⟨hf, ha, ht⟩ := plainWord_next (extra := fun u => { u with i := xNum f s }) h
    exact .ofWord rfl hf ha nofun rfl ⟨_, ht⟩
  | undefined15 f | undefined31 f => nomatch h
  | regbank f => exact execRegbank_completes h
  | enable f | disable f =>
    change ite _ _ _ = _ at h
    split at h
    · cases h
    · obtain ⟨hf, ha, h⟩ := withDatapath_next h
      exact .ofWord rfl hf ha nofun rfl ⟨_, (Host.Outcome.next.inj h).symm⟩
  | returni f => exact execReturni_completes h
  | iostrobe f =>
    obtain ⟨hf, ha, ht⟩ := plainWord_next (extra := emit (.ioStrobe (xPortId s) (xOutPort s))) h
    exact .ofWord rfl hf ha nofun rfl ⟨_, ht⟩
  | output f =>
    obtain ⟨hf, ha, ht⟩ := plainWord_next (extra := emit (.writeStrobe (xPortId s) (xOutPort s))) h
    exact .ofWord rfl hf ha nofun rfl ⟨_, ht⟩
  | outputk f => exact execOutputk_completes h
  | input f | inputoutput f =>
    obtain ⟨v, hv, hf, ha, ht⟩ := inputWord_next h
    refine .ofWord rfl ?_ ha nofun rfl ⟨.none, ?_⟩
    · simp only [aluOf, hv]
      exact hf
    · simp only [effectOf, fieldsEffect, fieldsOf, aluOf, regAfter, traceAfter, eventOf, portByte, hv]
      exact ht
  | b l g | jb l g | bcf0 l g | bcf1 l g | bzf0 l g | bzf1 l g | bc0 l g | bc1 l g =>
    obtain ⟨-, ht⟩ := branchWord_next h
    exact branch_completes rfl rfl ht
  | call l g | jcall l g =>
    obtain ⟨-, h⟩ := outsideSlot_next h
    exact callTaken_completes rfl rfl h
  | call0 l g => exact execCall0_completes h
  | call1 l g => exact execCall1_completes h
  | ret f | jret f =>
    obtain ⟨-, h⟩ := outsideSlot_next h
    obtain ⟨hf, ha, h⟩ := withDatapath_next h
    exact returnTaken_completes (by simp) rfl hf ha h
  | ret0 f => exact execRet0_completes h
  | ret1 f => exact execRet1_completes h
  | popsp f => exact execPopsp_completes h
  | loop f => exact execLoop_completes h
  | wait f => exact execWait_completes h
  | compressedUpper k p | compressedLower k p =>
    obtain ⟨-, -, -, -, hroom, ht⟩ := compressedStart_next h
    exact ⟨fun _ hf => (nomatch hf), fun _ => hroom, nofun, .inl rfl, .inl ⟨_, ht⟩⟩

/-! ### The registers after an instruction that completes -/

/-- What the fields do not write. -/
theorem special_fieldsEffect (i : Instr) (s : State) : special (fieldsEffect i s) = special s := by
  unfold fieldsEffect
  split <;> rfl

/-- Whatever of the state neither the control part nor the return from an interrupt writes is as the effects
leave it. -/
theorem Completes.effect {α : Type} {i : Instr} {s t : State} (c : Completes i s t) (p : State → α)
    (hfinish : ∀ tr u, p (finish s tr u) = p u) (hreturn : ∀ u, p (interruptReturn s u) = p u) :
    p t = p (effectOf i s) := by
  obtain ⟨tr, rfl⟩ | ⟨-, rfl⟩ := c.result
  · exact hfinish tr _
  · exact hreturn _

section

variable {i : Instr} {s t : State}

theorem Completes.counter_eq (c : Completes i s t) : t.i = counterAfter i s :=
  c.effect State.i (fun _ _ => rfl) fun _ => rfl

theorem Completes.bank_eq (c : Completes i s t) : t.bank = bankAfter i s :=
  c.effect State.bank (fun _ _ => rfl) fun _ => rfl

theorem Completes.enable_eq (c : Completes i s t) : t.ie = enableAfter i s :=
  c.effect State.ie (fun _ _ => rfl) fun _ => rfl

theorem Completes.operand_eq (c : Completes i s t) : t.co = operandAfter i s :=
  c.effect State.co (fun _ _ => rfl) fun _ => rfl

theorem Completes.half_eq (c : Completes i s t) : t.hl = halfAfter i s :=
  c.effect State.hl (fun _ _ => rfl) fun _ => rfl

theorem Completes.stack_eq (c : Completes i s t) : t.stk = stackAfter i s :=
  c.effect State.stk (fun _ _ => rfl) fun _ => rfl

theorem Completes.cip_eq (c : Completes i s t) : t.cip = cipAfter i s :=
  c.effect State.cip (fun _ _ => rfl) fun _ => rfl

theorem Completes.dmem_eq (c : Completes i s t) : t.dmem = (fieldsEffect i s).dmem :=
  c.effect State.dmem (fun _ _ => rfl) fun _ => rfl

theorem Completes.ira_eq (c : Completes i s t) : t.ira = s.ira :=
  (c.effect State.ira (fun _ _ => rfl) fun _ => rfl).trans
    (congrArg Special.ira (special_fieldsEffect i s))

theorem Completes.irav_eq (c : Completes i s t) : t.irav = s.irav :=
  (c.effect State.irav (fun _ _ => rfl) fun _ => rfl).trans
    (congrArg Special.irav (special_fieldsEffect i s))

theorem Completes.pmem_eq (c : Completes i s t) : t.pmem = s.pmem :=
  (c.effect State.pmem (fun _ _ => rfl) fun _ => rfl).trans
    (congrArg Special.pmem (special_fieldsEffect i s))

theorem Completes.cfg_eq (c : Completes i s t) : t.cfg = s.cfg :=
  (c.effect State.cfg (fun _ _ => rfl) fun _ => rfl).trans
    (congrArg Special.cfg (special_fieldsEffect i s))

/-- The interrupt lines move between the steps, not in an instruction. -/
theorem Completes.lines_eq (c : Completes i s t) :
    (t.irq0, t.irq1, t.irqNext) = (s.irq0, s.irq1, s.irqNext) :=
  (c.effect (fun u => (u.irq0, u.irq1, u.irqNext)) (fun _ _ => rfl) fun _ => rfl).trans
    (congrArg Special.lines (special_fieldsEffect i s))

/-- Only RETURNI ends the service of an interrupt, and only it leaves an instruction of grace. -/
theorem Completes.service_eq (c : Completes i s t) (hi : ∀ f, i ≠ .returni f) :
    t.ins = s.ins ∧ t.gr = false := by
  obtain ⟨tr, rfl⟩ | ⟨⟨f, rfl⟩, -⟩ := c.result
  · exact ⟨congrArg Special.ins (special_fieldsEffect i s), rfl⟩
  · exact absurd rfl (hi f)

end

/-! ### The statements about one register -/

/-- Settles O22, by `counterAfter`, which has an arm for each writer of I. -/
theorem loopCounter : Obligations.LoopCounter := by
  intro i s t h
  have c := (exec_next h).counter_eq
  refine ⟨?_, ?_, fun hiX hloop hwait => ?_⟩
  · rintro f rfl
    rw [c]
    exact xNum_toNat f s
  · have count : (if s.i = 0 then s.i else s.i - 1).toNat = s.i.toNat - 1 := by
      split_ifs with h0
      · simp [h0]
      · bv_omega
    rintro f (rfl | rfl) <;> exact (congrArg _ c).trans count
  · rw [c]
    unfold counterAfter
    split
    · exact absurd rfl (hiX _)
    · exact absurd rfl (hloop _)
    · exact absurd rfl (hwait _)
    · rfl

/-- Settles O23: the definition of each register's value after the instruction has an arm for each of its
writers, and the registers no opcode writes are those the fields leave alone. -/
theorem controlStateWriters : Obligations.ControlStateWriters := by
  intro i s t h
  have c := exec_next h
  refine ⟨fun hi => ?_, fun he hd => ?_, c.service_eq, fun hu hl => ⟨?_, fun hp => ?_⟩, c.ira_eq, c.irav_eq,
    c.pmem_eq, c.cfg_eq, ?_⟩
  · rw [c.bank_eq]
    unfold bankAfter
    split
    · exact absurd rfl (hi _)
    · rfl
  · rw [c.enable_eq]
    unfold enableAfter
    split
    · exact absurd rfl (he _)
    · exact absurd rfl (hd _)
    · rfl
  · rw [c.operand_eq]
    unfold operandAfter
    split
    · exact absurd rfl (hu _ _)
    · exact absurd rfl (hl _ _)
    · rfl
  · rw [c.half_eq]
    unfold halfAfter
    split
    · exact absurd rfl (hu _ _)
    · exact absurd rfl (hl _ _)
    · exact absurd rfl (hp _)
    · rfl
  · simpa using c.lines_eq

/-- The instructions that pop are the returns and POPSP. -/
theorem returns_of_popsIn {i : Instr} {s : State} (h : popsIn i s = true) :
    ∃ f, i = .ret f ∨ i = .jret f ∨ i = .ret0 f ∨ i = .ret1 f ∨ i = .popsp f := by
  cases i with
  | ret f | jret f | ret0 f | ret1 f | popsp f => exact ⟨f, by simp⟩
  | _ => cases h

/-- The instructions that push are the calls and the two halves of a compressed word. -/
theorem calls_of_pushOf {i : Instr} {s : State} {v : Addr} (h : pushOf i s = some v) :
    (∃ l g, i = .call l g ∨ i = .jcall l g ∨ i = .call0 l g ∨ i = .call1 l g) ∨
      ∃ k p, i = .compressedUpper k p ∨ i = .compressedLower k p := by
  cases i with
  | call l g | jcall l g | call0 l g | call1 l g => exact .inl ⟨l, g, by simp⟩
  | compressedUpper k p | compressedLower k p => exact .inr ⟨k, p, by simp⟩
  | _ => cases h

/-- Settles O24: the stack after the instruction is the old one popped, the old one with the address pushed,
or the old one. -/
theorem stackWriters : Obligations.StackWriters := by
  intro i s t h
  have c := exec_next h
  rw [c.stack_eq]
  cases hpop : popsIn i s with
  | true => exact .inr (.inl ⟨by simp [stackAfter, hpop], c.entry hpop, returns_of_popsIn hpop⟩)
  | false =>
    cases hpush : pushOf i s with
    | none => exact .inl (by simp [stackAfter, hpop, hpush])
    | some v =>
      exact .inr (.inr ⟨v, by simp [stackAfter, hpop, hpush], c.room (by simp [hpush]),
        calls_of_pushOf hpush⟩)

end Sys2Proof.Machine
end

section
/-!
Every step keeps `State.Inv`. The facts about each part of the state come first: memory, the stack with CIP,
and the control part; then the three things a step can be made of: an instruction, an interrupt entry, the
lines moving on.
-/

namespace Sys2Proof.Machine

open Spec

/-! ### Data memory -/

/-- Where the data addresses exist the byte written is inside data memory, the scratchpad being part of it
(20_memory.md R47). -/
theorem writeAddress_lt {f : Fields} {s : State} (hcfg : s.cfg.Legal)
    (ha : addressImplemented f s = true) : writeAddress f s < s.cfg.dmemBytes := by
  obtain ⟨-, hpad, -⟩ := hcfg
  obtain ⟨hxz, hn, haddr, hreg⟩ := (addressImplemented_iff f s).mp ha
  unfold writeAddress
  cases hm : f.rmode with
  | xz =>
    rw [dataAddress_xz s _ hm]
    have := hxz hm
    have := (zNum f s).isLt
    omega
  | n => exact dataAddress_n s _ hm ▸ (hn hm).trans_le hpad
  | addr => exact dataAddress_addr s _ hm ▸ (haddr hm).trans_le hpad
  | regAddr => exact dataAddress_regAddr s _ hm ▸ hreg hm

/-- A property of data memory that a store inside it keeps holds after the fields' effects. -/
theorem Completes.dmem_induction {i : Instr} {s t : State} (c : Completes i s t) (hcfg : s.cfg.Legal)
    {P : Memory 8 → Prop} (hs : P s.dmem)
    (hstore : ∀ a v, a < s.cfg.dmemBytes → P (s.dmem.store a v)) : P t.dmem := by
  rw [c.dmem_eq, fieldsEffect]
  split
  · next f hf =>
    rw [datapath_dmem, nextDmem]
    split
    · exact hstore _ _ (writeAddress_lt hcfg (c.fields f hf).2)
    · exact hs
  · exact hs
  · exact hs

/-! ### The return stack and CIP -/

theorem stackAfter_of_popsIn {i : Instr} {s : State} (h : popsIn i s = true) :
    stackAfter i s = s.stk.tail := by
  simp [stackAfter, h]

/-- Without a pop no entry goes away. -/
theorem length_le_stackAfter {i : Instr} {s : State} (h : popsIn i s = false) :
    s.stk.length ≤ (stackAfter i s).length := by
  rw [stackAfter, h]
  cases pushOf i s <;> simp

/-- The stack stays within its depth (10_state.md R23). -/
theorem Completes.stack_le {i : Instr} {s t : State} (c : Completes i s t)
    (h : s.stk.length ≤ s.cfg.stackDepth) : (stackAfter i s).length ≤ s.cfg.stackDepth := by
  unfold stackAfter
  split
  · rw [List.length_tail]
    omega
  · split
    · next v hv => exact c.room (by simp [hv])
    · exact h

/-- CIP names a depth that is on the stack (10_state.md R22): a start names the depth it makes, and a pop that
goes below the depth named ends the compressed instruction (43_compressed.md R195). -/
theorem cipAfter_le_stackAfter {i : Instr} {s : State}
    (h : ∀ d, s.cip = some d → 1 ≤ d ∧ d ≤ s.stk.length) {d : Nat} (hd : cipAfter i s = some d) :
    1 ≤ d ∧ d ≤ (stackAfter i s).length := by
  unfold cipAfter at hd
  split at hd
  · cases hd
    exact ⟨Nat.le_add_left .., le_rfl⟩
  · cases hd
    exact ⟨Nat.le_add_left .., le_rfl⟩
  · cases hd
  · split at hd
    · next hpop =>
      obtain ⟨hs, hle⟩ := cipAfterPop_some hd
      exact ⟨(h d hs).1, stackAfter_of_popsIn hpop ▸ hle⟩
    · next hpop =>
      obtain ⟨hpos, hle⟩ := h d hd
      exact ⟨hpos, hle.trans (length_le_stackAfter (Bool.eq_false_iff.mpr hpop))⟩

/-! ### The control part -/

/-- IND is set only by a transfer that arrives at address 1 (42_control_transfer.md R176). -/
theorem nextInd_arrives {s : State} {tr : Transfer} (h : nextInd s tr = true) :
    nextPc s tr = 1 ∧ nextPend s tr = none := by
  cases tr with
  | now g => exact ⟨of_decide_eq_true h, rfl⟩
  | delayed1 g | delayed2 g | again => cases h
  | none =>
    match hp : s.pend with
    | some (.one g) =>
      simp only [nextInd, hp, decide_eq_true_eq] at h
      simp [nextPc, nextPend, hp, h]
    | some (.two g) => simp [nextInd, hp] at h
    | none => simp [nextInd, hp] at h

/-- SEQ is set only where no transfer is about (10_state.md R27). -/
theorem nextSeq_falls {s : State} {tr : Transfer} (h : nextSeq s tr = true) :
    nextPend s tr = none ∧ nextInd s tr = false := by
  simp only [nextSeq, Bool.and_eq_true, decide_eq_true_eq] at h
  obtain ⟨⟨rfl, hp⟩, -⟩ := h
  simp [nextPend, nextInd, hp]

/-! ### The invariant -/

/-- Every instruction that completes leads from a sound state to a sound state. -/
theorem Completes.inv {i : Instr} {s t : State} (c : Completes i s t) (h : s.Inv) : t.Inv where
  config := c.cfg_eq ▸ h.config
  bank := by
    rw [c.bank_eq, c.cfg_eq]
    exact c.bank.elim (· ▸ h.bank) id
  stack := by
    rw [c.stack_eq, c.cfg_eq]
    exact c.stack_le h.stack
  dataForm := c.dmem_induction (P := fun m => m.wf = true) h.config h.dataForm
    fun a v _ => wf_store a v h.dataForm
  dataSize := by
    rw [c.cfg_eq]
    exact c.dmem_induction (P := fun m => m.below s.cfg.dmemBytes = true) h.config h.dataSize
      fun _ v ha => below_store v ha _ h.dataSize
  programForm := c.pmem_eq ▸ h.programForm
  programSize := by
    rw [c.pmem_eq, c.cfg_eq]
    exact h.programSize
  indirect hind := by
    obtain ⟨tr, rfl⟩ | ⟨-, rfl⟩ := c.result
    · exact nextInd_arrives hind
    · cases hind
  compressed d hd := by
    rw [c.cip_eq] at hd
    rw [c.stack_eq]
    exact cipAfter_le_stackAfter h.compressed hd
  grace hins := by
    obtain ⟨tr, rfl⟩ | ⟨-, rfl⟩ := c.result
    · rfl
    · cases hins
  sequential hseq := by
    obtain ⟨tr, rfl⟩ | ⟨-, rfl⟩ := c.result
    · exact nextSeq_falls hseq
    · cases hseq
  readable v hv := by
    rw [c.irav_eq] at hv
    rw [c.ira_eq, c.cfg_eq]
    exact h.readable v hv

/-- Interrupt entry leads from a sound state to a sound state: no transfer and no grace is about, and the
readable return address is made from the one that is saved (60_exceptions.md R235, R236). -/
theorem interruptEntry_inv {s : State} (h : s.Inv) (hb : boundary s = .enter) :
    (interruptEntry s).Inv := by
  obtain ⟨-, -, -, hgr, -, hind⟩ := boundary_enter hb
  exact
    { h with
      indirect := fun hi => absurd (hind.symm.trans hi) Bool.false_ne_true
      grace := fun _ => hgr
      sequential := nofun
      readable := fun v hv => by
        rw [interruptEntry_irav] at hv
        split at hv
        · exact (Option.some.inj hv).symm
        · cases hv }

/-- The relations of a sound state do not speak of the interrupt lines. -/
theorem nextLines_inv {s : State} (h : s.Inv) : (nextLines s).Inv := by
  unfold nextLines
  split
  · exact h
  · exact { h with }

/-- Settles O9. A step is an interrupt entry or an instruction that completes, and then the lines move on. -/
theorem stepKeepsInvariant : Obligations.StepKeepsInvariant := by
  intro s t h hstep
  obtain ⟨hb, rfl⟩ | ⟨-, i, u, -, hexec, rfl⟩ := step_next hstep
  · exact nextLines_inv (interruptEntry_inv h hb)
  · exact nextLines_inv ((exec_next hexec).inv h)

end Sys2Proof.Machine
end

section
/-!
IE is read by no instruction (10_state.md R25). Each shared operation carries another value of IE along to the
state it leads to, and stops where it stopped; so does each instruction but ENABLE and DISABLE, which write
over that value.
-/

namespace Sys2Proof.Machine

/-- `s` with another value of IE. -/
def setIe (v : Bool) (s : State) : State := { s with ie := v }

/-- The outcome with another value of IE in the next state; a stop stays as it is. -/
def nextWithIe (v : Bool) : Result → Result
  | .next t => .next (setIe v t)
  | .fault x => .fault x
  | .refused r => .refused r

section

variable {v : Bool} {s : State}

theorem ite_setIe {p : Prop} [Decidable p] {x x' y y' : Result} (hx : x' = nextWithIe v x)
    (hy : y' = nextWithIe v y) : (if p then x' else y') = nextWithIe v (if p then x else y) := by
  rw [hx, hy, apply_ite (nextWithIe v)]

theorem withDatapath_setIe {k : AluOp} {f : Fields} {rest rest' : State → Result}
    (h : ∀ u, rest' (setIe v u) = nextWithIe v (rest u)) :
    withDatapath k f (setIe v s) rest' = nextWithIe v (withDatapath k f s rest) := by
  unfold withDatapath
  split
  · rfl
  · exact ite_setIe (h (datapath k f s)) rfl

theorem outsideSlot_setIe {r r' : Result} (h : r' = nextWithIe v r) :
    outsideSlot (setIe v s) r' = nextWithIe v (outsideSlot s r) := by
  rw [h]
  unfold outsideSlot
  cases hp : s.pend <;> simp only [setIe, hp, nextWithIe]

theorem pushThen_setIe {a : Addr} {rest rest' : List Addr → Result}
    (h : ∀ stk, rest' stk = nextWithIe v (rest stk)) :
    pushThen (setIe v s) a rest' = nextWithIe v (pushThen s a rest) := by
  rw [show rest' = fun stk => nextWithIe v (rest stk) from funext h]
  unfold pushThen
  rw [show pushed (setIe v s) a = pushed s a from rfl]
  cases pushed s a <;> rfl

theorem popThen_setIe {rest rest' : Addr → List Addr → Option Nat → Result}
    (h : ∀ a stk cip, rest' a stk cip = nextWithIe v (rest a stk cip)) :
    popThen (setIe v s) rest' = nextWithIe v (popThen s rest) := by
  unfold popThen
  cases hs : s.stk with
  | nil => simp only [setIe, hs, nextWithIe]
  | cons a stk => simpa only [setIe, hs] using h a stk _

theorem plainWord_setIe {k : AluOp} {f : Fields} {extra extra' : State → State}
    (h : ∀ u, extra' (setIe v u) = setIe v (extra u)) :
    plainWord k f (setIe v s) extra' = nextWithIe v (plainWord k f s extra) :=
  withDatapath_setIe fun u => by rw [h]; rfl

theorem callTaken_setIe {lsh : Bool} {ra target : Addr} {tr : Transfer} :
    callTaken lsh (setIe v s) ra target tr = nextWithIe v (callTaken lsh s ra target tr) :=
  ite_setIe rfl (pushThen_setIe fun _ => rfl)

theorem returnTaken_setIe {u : State} {mk : Addr → Transfer} :
    returnTaken (setIe v s) (setIe v u) mk = nextWithIe v (returnTaken s u mk) :=
  popThen_setIe fun _ _ _ => ite_setIe rfl rfl

theorem compressedStart_setIe {cop : BitVec 7} {copd : Byte} {ra : Addr} {hl : Bool} :
    compressedStart cop copd ra hl (setIe v s) =
      nextWithIe v (compressedStart cop copd ra hl s) :=
  ite_setIe rfl (ite_setIe rfl (ite_setIe rfl (pushThen_setIe fun _ => rfl)))

theorem execIX_setIe {f : Fields} : execIX f (setIe v s) = nextWithIe v (execIX f s) :=
  plainWord_setIe fun _ => rfl

theorem execPopsp_setIe {f : Fields} : execPopsp f (setIe v s) = nextWithIe v (execPopsp f s) :=
  withDatapath_setIe fun _ => popThen_setIe fun _ _ _ => rfl

theorem execIostrobe_setIe {f : Fields} :
    execIostrobe f (setIe v s) = nextWithIe v (execIostrobe f s) :=
  withDatapath_setIe fun _ => rfl

theorem execOutput_setIe {f : Fields} : execOutput f (setIe v s) = nextWithIe v (execOutput f s) :=
  withDatapath_setIe fun _ => rfl

theorem execOutputk_setIe {f : Fields} :
    execOutputk f (setIe v s) = nextWithIe v (execOutputk f s) := by
  unfold execOutputk
  rw [show outputkData f (setIe v s) = outputkData f s from rfl]
  cases outputkData f s with
  | none => rfl
  | some w => exact withDatapath_setIe fun _ => rfl

theorem inputWord_setIe {f : Fields} {event : Option Byte → IoEvent} :
    inputWord f (setIe v s) event = nextWithIe v (inputWord f s event) := by
  unfold inputWord
  rw [show inByte (setIe v s) (zNum f (setIe v s)) = inByte s (zNum f s) from rfl]
  cases inByte s (zNum f s) with
  | error r => rfl
  | ok w => exact withDatapath_setIe fun _ => rfl

/-- Every instruction but ENABLE and DISABLE carries another value of IE along. -/
theorem exec_setIe {i : Instr} (he : ∀ f, i ≠ .enable f) (hd : ∀ f, i ≠ .disable f) :
    exec i (setIe v s) = nextWithIe v (exec i s) := by
  cases i with
  | enable f => exact absurd rfl (he f)
  | disable f => exact absurd rfl (hd f)
  | nop f | dReg f | add f | and f | xor f | or f | mov f => exact plainWord_setIe fun _ => rfl
  | iX f => exact execIX_setIe
  | iostrobe f => exact execIostrobe_setIe
  | output f => exact execOutput_setIe
  | undefined15 f | undefined31 f => rfl
  | regbank f => exact ite_setIe rfl (ite_setIe rfl (plainWord_setIe fun _ => rfl))
  | returni f =>
    exact ite_setIe rfl (outsideSlot_setIe
      (ite_setIe (withDatapath_setIe fun _ => ite_setIe rfl rfl) rfl))
  | popsp f => exact execPopsp_setIe
  | outputk f => exact execOutputk_setIe
  | input f | inputoutput f => exact inputWord_setIe
  | b l g | jb l g | bcf0 l g | bcf1 l g | bzf0 l g | bzf1 l g | bc0 l g | bc1 l g =>
    exact outsideSlot_setIe rfl
  | call l g | jcall l g => exact outsideSlot_setIe callTaken_setIe
  | call0 l g => exact outsideSlot_setIe (ite_setIe rfl callTaken_setIe)
  | call1 l g => exact outsideSlot_setIe (ite_setIe callTaken_setIe rfl)
  | ret f | jret f => exact outsideSlot_setIe (withDatapath_setIe fun _ => returnTaken_setIe)
  | ret0 f =>
    exact outsideSlot_setIe (withDatapath_setIe fun _ => ite_setIe rfl returnTaken_setIe)
  | ret1 f =>
    exact outsideSlot_setIe (withDatapath_setIe fun _ => ite_setIe returnTaken_setIe rfl)
  | loop f =>
    exact outsideSlot_setIe (ite_setIe rfl
      (withDatapath_setIe fun _ => ite_setIe rfl (ite_setIe rfl rfl)))
  | wait f => exact outsideSlot_setIe (withDatapath_setIe fun _ => ite_setIe rfl rfl)
  | compressedUpper k p | compressedLower k p => exact compressedStart_setIe

end

/-- Settles O25. ENABLE and DISABLE write over the other value of IE, so their outcomes are the same terms. -/
theorem enableStateIsNotRead : Obligations.EnableStateIsNotRead := by
  refine ⟨fun f s t h => (exec_next h).enable_eq, fun f s t h => (exec_next h).enable_eq,
    fun f s v => ⟨rfl, rfl⟩, fun i s v he hd => (exec_setIe he hd).trans ?_⟩
  cases exec i s <;> rfl

end Sys2Proof.Machine
end

section
/-!
Where calls and returns stop (10_state.md R24; 42_control_transfer.md R176).
-/

namespace Sys2Proof.Machine

open Spec

/-- A call to address 1 has no meaning, whether the stack has room or not. -/
theorem callTaken_one (lsh : Bool) (s : State) (ra : Addr) (tr : Transfer) :
    callTaken lsh s ra 1 tr = .refused .callToAddressOne :=
  if_pos rfl

theorem callTaken_full {s : State} {target : Addr} (lsh : Bool) (ra : Addr) (tr : Transfer)
    (ht : target ≠ 1) (hfull : s.cfg.stackDepth ≤ s.stk.length) :
    callTaken lsh s ra target tr = .refused .stackOverflow :=
  (if_neg ht).trans (pushThen_full hfull)

theorem returnTaken_empty {s : State} (u : State) (mk : Addr → Transfer) (hs : s.stk = []) :
    returnTaken s u mk = .refused .stackUnderflow :=
  popThen_empty hs

/-- A return to address 1 has no meaning. -/
theorem returnTaken_one {s : State} {stk : List Addr} (u : State) (mk : Addr → Transfer)
    (hs : s.stk = 1 :: stk) : returnTaken s u mk = .refused .reachedAddressOne :=
  (popThen_ok hs).trans (if_pos rfl)

/-- Outside a slot, an outcome that a call has for every return address and transfer is that of each call
that is made. -/
theorem calls_of_callTaken {lsh : Bool} {target : Addr} {s : State} {r : Result} (hp : s.pend = none)
    (h : ∀ ra tr, callTaken lsh s ra target tr = r) :
    exec (.call lsh target) s = r ∧ exec (.jcall lsh target) s = r ∧
      (s.zf = false → exec (.call0 lsh target) s = r) ∧
      (s.zf = true → exec (.call1 lsh target) s = r) :=
  have made {x : Result} (hx : x = r) : outsideSlot s x = r := (outsideSlot_of_none hp).trans hx
  ⟨made (h _ _), made (h _ _),
    fun hz => made ((if_neg (Bool.not_eq_true _ ▸ hz)).trans (h _ _)),
    fun hz => made ((if_pos hz).trans (h _ _))⟩

/-- The returns that are made in a state: the conditional one depends on ZF (42_control_transfer.md R166 to
R169). -/
theorem exec_return {i : Instr} {f : Fields} {s : State} (hp : s.pend = none)
    (hi : i ∈ [Instr.ret f, .jret f] ++ (if s.zf then [Instr.ret1 f] else [Instr.ret0 f]))
    (hf : FieldsOk i f) (ha : AddressOk f s) :
    ∃ mk, exec i s = returnTaken s (datapath .plain f s) mk := by
  have runs (rest : State → Result) (hl : isLogic i = false) (hin : isInput i = false) :
      outsideSlot s (withDatapath .plain f s rest) = rest (datapath .plain f s) :=
    (outsideSlot_of_none hp).trans (withDatapath_of_allowed rest hl.symm hin.symm hf ha)
  cases hz : s.zf with
  | false =>
    obtain rfl | rfl | rfl : i = .ret f ∨ i = .jret f ∨ i = .ret0 f := by simpa [hz] using hi
    · exact ⟨_, runs _ rfl rfl⟩
    · exact ⟨_, runs _ rfl rfl⟩
    · exact ⟨_, (runs _ rfl rfl).trans (if_neg (Bool.not_eq_true _ ▸ hz))⟩
  | true =>
    obtain rfl | rfl | rfl : i = .ret f ∨ i = .jret f ∨ i = .ret1 f := by simpa [hz] using hi
    · exact ⟨_, runs _ rfl rfl⟩
    · exact ⟨_, runs _ rfl rfl⟩
    · exact ⟨_, (runs _ rfl rfl).trans (if_pos hz)⟩

theorem exec_popsp_empty {f : Fields} {s : State} (hf : FieldsOk (.popsp f) f) (ha : AddressOk f s)
    (hs : s.stk = []) : exec (.popsp f) s = .refused .stackUnderflow := by
  change execPopsp f s = _
  rw [execPopsp, withDatapath_of_allowed _ rfl rfl hf ha, popThen_empty hs]

/-- Settles O54: every call that is made is `callTaken`, every return that is made is `returnTaken`, and POPSP
pops after its datapath step. -/
theorem callAndReturnStops : Obligations.CallAndReturnStops := by
  intro lsh target f s hp
  refine ⟨fun ht hfull => calls_of_callTaken hp fun ra tr => callTaken_full lsh ra tr ht hfull,
    fun ht => calls_of_callTaken hp fun ra tr => ht ▸ callTaken_one lsh s ra tr,
    fun i hi hf ha hs => ?_, fun i stk hi hf ha hs => ?_⟩
  · by_cases hpop : i = .popsp f
    · subst hpop
      exact exec_popsp_empty hf ha hs
    · obtain ⟨mk, h⟩ := exec_return hp (by simpa [hpop] using hi) hf ha
      exact h.trans (returnTaken_empty _ mk hs)
  · obtain ⟨mk, h⟩ := exec_return hp hi hf ha
    exact h.trans (returnTaken_one _ mk hs)

end Sys2Proof.Machine
end
section
/-!
The fetch and the boundary before a step, from the side of the state: where no request is accepted the
instruction at pc runs, and the fetch stops by the name of its reason or gives a well-formed instruction.
-/

namespace Sys2Proof.Machine

open Spec

/-- The second reading of 60_exceptions.md R235 is the model's. -/
theorem requestAllowed_iff (s : State) : requestAllowed s = true ↔ Accept s := by
  simp [requestAllowed, Accept, and_assoc]

/-- Where no request is accepted the step is the instruction at pc. -/
theorem step_of_not_accept {s : State} (h : ¬ Accept s) : step s = afterStep (runInstruction s) := by
  have hb : boundary s = .run := if_neg fun hr => h ((requestAllowed_iff s).mp hr)
  rw [step, hb]

/-! ### The fetch -/

theorem fetchWord_of_lookup {s : State} {w : Word} (hpc : s.pc.toNat < s.cfg.pmemWords)
    (hw : s.pmem.lookup s.pc.toNat = some w) : fetchWord s = .ok w := by
  rw [fetchWord, programWord_of_lt hpc, hw]

theorem fetchWord_outside {s : State} (hpc : s.cfg.pmemWords ≤ s.pc.toNat) :
    fetchWord s = .error .fetchOutside := by
  rw [fetchWord, programWord_of_le hpc]
  exact if_neg (Nat.not_lt.mpr hpc)

theorem fetchWord_unloaded {s : State} (hpc : s.pc.toNat < s.cfg.pmemWords)
    (hw : s.pmem.lookup s.pc.toNat = none) : fetchWord s = .error .programWordNotLoaded := by
  rw [fetchWord, programWord_of_lt hpc, hw]
  exact if_pos hpc

/-- A word may be reached outside address 1, and the bare NOP there under an indirect jump. -/
theorem addressOneRefusal_eq_none {s : State} {w : Word} (hind : s.ind = true → w = 0)
    (hpc : s.ind = false → s.pc ≠ 1) : addressOneRefusal s w = none := by
  unfold addressOneRefusal
  cases h : s.ind with
  | true => simp [hind h]
  | false => simpa using hpc h

theorem runInstruction_of_fault {s : State} {x : Fault} (h : fetchWord s = .error x) :
    runInstruction s = .fault x := by
  simp only [runInstruction, fetchInstr, h]

theorem runInstruction_of_unreachable {s : State} {w : Word} {r : Refusal} (hw : fetchWord s = .ok w)
    (h : addressOneRefusal s w = some r) : runInstruction s = .refused r := by
  simp only [runInstruction, fetchInstr, hw, h]

theorem runInstruction_of_undecoded {s : State} {w : Word} {e : DecodeError} (hw : fetchWord s = .ok w)
    (h : addressOneRefusal s w = none) (hd : decode s.cfg.variantBit s.hl w = .error e) :
    runInstruction s = .refused (decodeRefusal e) := by
  simp only [runInstruction, fetchInstr, hw, h, hd]

theorem runInstruction_of_decoded {s : State} {w : Word} {i : Instr} (hw : fetchWord s = .ok w)
    (h : addressOneRefusal s w = none) (hd : decode s.cfg.variantBit s.hl w = .ok i) :
    runInstruction s = exec i s := by
  simp only [runInstruction, fetchInstr, hw, h, hd]

/-- Settles O8, one reason of the fetch after the other. -/
theorem fetchStops : Obligations.FetchStops := by
  intro s hs
  rw [step_of_not_accept hs]
  refine ⟨fun hpc => ?_, fun hpc => ⟨fun hw => ?_, fun w hw => ?_⟩⟩
  · rw [runInstruction_of_fault (fetchWord_outside hpc), afterStep]
  · rw [runInstruction_of_fault (fetchWord_unloaded hpc hw), afterStep]
  · have hfetch := fetchWord_of_lookup hpc hw
    refine ⟨fun hind h1 => ?_, fun hind h0 => ?_, fun hind h1 e he => ?_⟩
    · have hone : addressOneRefusal s w = some .reachedAddressOne := by
        simp [addressOneRefusal, hind, h1]
      rw [runInstruction_of_unreachable hfetch hone, afterStep]
    · have hone : addressOneRefusal s w = some .addressOneNotNop := by
        simpa [addressOneRefusal, hind] using h0
      rw [runInstruction_of_unreachable hfetch hone, afterStep]
    · have hone := addressOneRefusal_eq_none (w := w) (by simp [hind]) fun _ => h1
      rw [runInstruction_of_undecoded hfetch hone he, afterStep]
      cases e <;> rfl

/-! ### What decodes is an instruction -/

/-- An address word decodes to one of the two mnemonics of its opcode. -/
theorem decodeAddress_ok {vb : VariantBit} {w : Word} {mk0 mk1 : Bool → Addr → Instr} {i : Instr}
    (h : decodeAddress vb w mk0 mk1 = .ok i) : ∃ l g, i = mk0 l g ∨ i = mk1 l g := by
  unfold decodeAddress at h
  split_ifs at h <;> cases h
  · exact ⟨_, _, .inr rfl⟩
  · exact ⟨_, _, .inl rfl⟩

theorem decodeNormal_wf {vb : VariantBit} {w : Word} {i : Instr} (h : decodeNormal vb w = .ok i) :
    i.wf = true := by
  unfold decodeNormal at h
  split at h
  case h_3 | h_4 | h_5 | h_6 | h_7 | h_8 =>
    obtain ⟨l, g, rfl | rfl⟩ := decodeAddress_ok h <;> rfl
  case h_13 =>
    split at h
    · cases h
    · next hcopr =>
      cases h
      simpa [Instr.wf, decodeFields] using hcopr
  all_goals
    cases h
    rfl

theorem decode_wf {vb : VariantBit} {hl : Bool} {w : Word} {i : Instr} (h : decode vb hl w = .ok i) :
    i.wf = true := by
  unfold decode at h
  split_ifs at h
  · cases h
    rfl
  · cases h
    rfl
  · exact decodeNormal_wf h

/-- Settles O7: the boundary runs the instruction, the fetch gives it, and what decodes is well formed. -/
theorem stepRunsDecodedInstruction : Obligations.StepRunsDecodedInstruction := by
  intro s w i hs hpc hw hind h1 hd
  refine ⟨decode_wf hd, ?_⟩
  rw [step_of_not_accept hs, runInstruction_of_decoded (fetchWord_of_lookup hpc hw)
    (addressOneRefusal_eq_none hind h1) hd]
  cases exec i s <;> rfl

/-- Settles O13, by the fields of the reset state. -/
theorem resetState : Obligations.ResetState :=
  ⟨rfl, rfl, rfl, rfl, rfl, rfl, rfl, rfl, rfl, rfl⟩

end Sys2Proof.Machine
end

section
/-!
The data addresses of a word (20_memory.md R44, R47) and its fields (40_datapath_fields.md R93, R96), from the
side of the stops: a datapath step on excluded fields is refused, one outside implemented memory faults, and
each word with fields does one datapath step, behind the checks of its opcode. Program memory is read by the
fetch and written by nothing (20_memory.md R52).
-/

namespace Sys2Proof.Machine

open Spec

/-! ### The addresses under `R(N)` and program memory -/

theorem low_lt (f : Fields) (s : State) : low f s < 256 :=
  lowByte_toNat f s ▸ (lowByte f s).isLt

/-- The low byte is the word's or CO, so BANK has no part in it. -/
theorem low_bank (f : Fields) (s : State) (v : Nibble) : low f { s with bank := v } = low f s :=
  rfl

/-- Settles O26. X and Z have no part in the address, and neither has BANK. -/
theorem immediateAddressMode : Obligations.ImmediateAddressMode := by
  intro f s hn
  refine ⟨⟨dataAddress_n s _ hn, dataAddress_n s _ hn, low_lt f s⟩, fun v => ?_⟩
  rw [← low_bank f s v]
  exact ⟨dataAddress_n _ _ hn, dataAddress_n _ _ hn⟩

/-- Settles O11. Interrupt entry, every instruction, and the lines moving on leave both alone. -/
theorem stepKeepsProgram : Obligations.StepKeepsProgram := by
  intro s t h
  obtain ⟨-, rfl⟩ | ⟨-, i, u, -, hexec, rfl⟩ := step_next h
  · simp
  · have c := exec_next hexec
    exact ⟨(nextLines_pmem u).trans c.pmem_eq, (nextLines_cfg u).trans c.cfg_eq⟩

/-! ### Where the datapath step stops -/

/-- Fields that are allowed, on an address outside implemented memory. -/
theorem withDatapath_outside {k : AluOp} {i : Instr} {f : Fields} {s : State} (rest : State → Result)
    (hl : k.isLogic = isLogic i) (hi : k.isInput = isInput i) (hf : FieldsOk i f)
    (ha : ¬ AddressOk f s) : withDatapath k f s rest = .fault .dataAddress := by
  have hnone := (fieldRefusal_eq_none_iff f hl hi).mpr hf
  have hout : ¬ addressImplemented f s = true := mt (addressImplemented_iff f s).mp ha
  simp only [withDatapath, hnone, if_neg hout]

/-- Fields that are excluded, on whatever address. -/
theorem withDatapath_refused {k : AluOp} {i : Instr} {f : Fields} {s : State} {rest : State → Result}
    (hl : k.isLogic = isLogic i) (hi : k.isInput = isInput i) (hf : ¬ FieldsOk i f) :
    ∃ r, withDatapath k f s rest = .refused r := by
  have hsome : fieldRefusal k f ≠ none := mt (fieldRefusal_eq_none_iff f hl hi).mp hf
  obtain ⟨r, hr⟩ := Option.ne_none_iff_exists'.mp hsome
  exact ⟨r, by simp only [withDatapath, hr]⟩

/-- The words whose opcode checks nothing before its datapath step. -/
def uncheckedWords (f : Fields) : List Instr :=
  [.nop f, .iX f, .dReg f, .add f, .and f, .xor f, .or f, .mov f, .iostrobe f, .output f, .popsp f]

theorem exec_eq_withDatapath {i : Instr} {f : Fields} (s : State) (hi : i ∈ uncheckedWords f) :
    (∃ rest, exec i s = withDatapath (aluOf i s) f s rest) ∧
      (aluOf i s).isLogic = isLogic i ∧ (aluOf i s).isInput = isInput i := by
  unfold uncheckedWords at hi
  fin_cases hi
  all_goals
    refine ⟨?_, rfl, rfl⟩
    simp only [exec, execNop, execIX, execDReg, execAdd, execAnd, execXor, execOr, execMov, execIostrobe,
      execOutput, execPopsp, plainWord]
    exact ⟨_, rfl⟩

/-- Settles O28. A word that completes has done its datapath step, and the listed opcodes check nothing before
theirs. -/
theorem dataAddressOutside : Obligations.DataAddressOutside := by
  refine ⟨fun i f s t h hi => ?_, fun i f s hi hf ha => ?_⟩
  · exact (addressImplemented_iff f s).mp ((exec_next h).fields f hi).2
  · obtain ⟨⟨rest, h⟩, hl, hin⟩ := exec_eq_withDatapath s hi
    exact h.trans (withDatapath_outside rest hl hin hf ha)

/-! ### Excluded fields behind the checks of an opcode -/

theorem ite_refused {p : Prop} [Decidable p] {x y : Result} (hx : ∃ r, x = .refused r)
    (hy : ∃ r, y = .refused r) : ∃ r, (if p then x else y) = .refused r := by
  split
  · exact hx
  · exact hy

theorem outsideSlot_refused {s : State} {x : Result} (hx : ∃ r, x = .refused r) :
    ∃ r, outsideSlot s x = .refused r := by
  cases hp : s.pend with
  | none => exact outsideSlot_of_none hp ▸ hx
  | some d => exact ⟨_, outsideSlot_of_some hp⟩

theorem exec_refused_of_unchecked {i : Instr} {f : Fields} {s : State} (hi : i ∈ uncheckedWords f)
    (hf : ¬ FieldsOk i f) : ∃ r, exec i s = .refused r := by
  obtain ⟨⟨rest, h⟩, hl, hin⟩ := exec_eq_withDatapath s hi
  exact h ▸ withDatapath_refused hl hin hf

theorem execOutputk_refused {f : Fields} {s : State} (hf : ¬ FieldsOk (.outputk f) f) :
    ∃ r, execOutputk f s = .refused r := by
  unfold execOutputk
  split
  · exact ⟨_, rfl⟩
  · exact withDatapath_refused rfl rfl hf

/-- Which byte an input reads does not matter for its fields. -/
theorem inputWord_refused {i : Instr} {f : Fields} {s : State} {event : Option Byte → IoEvent}
    (hl : isLogic i = false) (hi : isInput i = true) (hf : ¬ FieldsOk i f) :
    ∃ r, inputWord f s event = .refused r := by
  unfold inputWord
  split
  · exact ⟨_, rfl⟩
  · exact withDatapath_refused hl.symm hi.symm hf

/-- Settles O29. Whatever an opcode checks before its datapath step is refused as well. -/
theorem excludedFieldsRefused : Obligations.ExcludedFieldsRefused := by
  intro i f s hi hf
  cases i with
  | nop | iX | dReg | add | and | xor | or | mov | popsp | iostrobe | output =>
    cases hi
    exact exec_refused_of_unchecked (by simp [uncheckedWords]) hf
  | undefined15 | undefined31 => exact ⟨_, rfl⟩
  | regbank =>
    cases hi
    exact ite_refused ⟨_, rfl⟩ (ite_refused ⟨_, rfl⟩ (withDatapath_refused rfl rfl hf))
  | enable | disable =>
    cases hi
    exact ite_refused ⟨_, rfl⟩ (withDatapath_refused rfl rfl hf)
  | returni =>
    cases hi
    exact ite_refused ⟨_, rfl⟩
      (outsideSlot_refused (ite_refused (withDatapath_refused rfl rfl hf) ⟨_, rfl⟩))
  | outputk =>
    cases hi
    exact execOutputk_refused hf
  | input | inputoutput =>
    cases hi
    exact inputWord_refused rfl rfl hf
  | ret | jret | ret0 | ret1 | wait =>
    cases hi
    exact outsideSlot_refused (withDatapath_refused rfl rfl hf)
  | loop =>
    cases hi
    exact outsideSlot_refused (ite_refused ⟨_, rfl⟩ (withDatapath_refused rfl rfl hf))
  | _ => cases hi

end Sys2Proof.Machine
end

section
/-!
The encoder's words read back: the fields, the opcode and the address of a word, and from them that decoding
undoes encoding and encoding undoes decoding, for every VARIANT_BIT (30_encoding.md R61 to R70).
-/

namespace Sys2Proof

open Spec

/-! ### The fields of a plain or LOOP word -/

/-- A field of a word is `x` where its bits are those of `x`. -/
theorem extractLsb'_eq_of_getLsbD {n m lo : Nat} {w : BitVec m} {x : BitVec n}
    (h : ∀ k, k < n → w.getLsbD (lo + k) = x.getLsbD k) : w.extractLsb' lo n = x :=
  BitVec.eq_of_getLsbD_eq fun k hk => by simp [hk, h k hk]

@[simp] theorem RMode.ofBits_bits (x : RMode) : RMode.ofBits x.bits = x := by cases x <;> rfl

@[simp] theorem AddrSel.ofBits_bits (x : AddrSel) : AddrSel.ofBits x.bits = x := by cases x <;> rfl

@[simp] theorem AddlSel.ofBits_bits (x : AddlSel) : AddlSel.ofBits x.bits = x := by cases x <;> rfl

@[simp] theorem BcSel.ofBits_bits (x : BcSel) : BcSel.ofBits x.bits = x := by cases x <;> rfl

@[simp] theorem RMode.bits_ofBits (x : BitVec 2) : (RMode.ofBits x).bits = x := by
  revert x; decide

@[simp] theorem AddrSel.bits_ofBits (x : BitVec 2) : (AddrSel.ofBits x).bits = x := by
  revert x; decide

@[simp] theorem AddlSel.bits_ofBits (x : BitVec 2) : (AddlSel.ofBits x).bits = x := by
  revert x; decide

@[simp] theorem BcSel.bits_ofBits (x : BitVec 4) : (BcSel.ofBits x).bits = x := by
  revert x; decide

section

variable (opc : BitVec 5) (f : Fields)

/-- The opcode and the fields of several bits of a plain or LOOP word. -/
theorem encodeFields_extract :
    (encodeFields opc f).extractLsb' 25 5 = opc ∧ (encodeFields opc f).extractLsb' 20 4 = f.bc.bits ∧
      (encodeFields opc f).extractLsb' 16 2 = f.rmode.bits ∧
      (encodeFields opc f).extractLsb' 12 2 = f.addr.bits ∧
      (encodeFields opc f).extractLsb' 10 2 = f.addl.bits ∧
      (encodeFields opc f).extractLsb' 0 8 = f.low := by
  refine ⟨?_, ?_, ?_, ?_, ?_, ?_⟩
  all_goals
    refine extractLsb'_eq_of_getLsbD fun k hk => ?_
    rw [encodeFields_getLsbD _ _ _ (by omega)]
    interval_cases k <;> rfl

theorem decodeFields_encodeFields : decodeFields (encodeFields opc f) = f := by
  obtain ⟨-, hbc, hrmode, haddr, haddl, hlow⟩ := encodeFields_extract opc f
  simp [decodeFields, hbc, hrmode, haddr, haddl, hlow, encodeFields_getLsbD,
    -BitVec.getLsbD_eq_getElem]

theorem encodeFields_normal : (encodeFields opc f).getLsbD 31 = false :=
  encodeFields_getLsbD opc f 31 (by decide)

end

theorem encodeFields_decodeFields {w : Word} (h31 : w.getLsbD 31 = false) :
    encodeFields (w.extractLsb' 25 5) (decodeFields w) = w := by
  refine BitVec.eq_of_getLsbD_eq fun i hi => ?_
  rw [encodeFields_getLsbD _ _ _ hi]
  simp only [decodeFields, RMode.bits_ofBits, AddrSel.bits_ofBits, AddlSel.bits_ofBits, BcSel.bits_ofBits]
  interval_cases i <;> simp [h31, -BitVec.getLsbD_eq_getElem]

/-! ### The plain and the LOOP form -/

/-- The opcode of an instruction with fields (30_encoding.md R70). -/
def fieldsOpcode : Instr → Option (BitVec 5)
  | .nop _ => some 0
  | .iX _ => some 1
  | .ret _ => some 8
  | .jret _ => some 9
  | .ret0 _ => some 10
  | .ret1 _ => some 11
  | .loop _ => some 12
  | .wait _ => some 13
  | .dReg _ => some 14
  | .undefined15 _ => some 15
  | .add _ => some 16
  | .and _ => some 17
  | .xor _ => some 18
  | .or _ => some 19
  | .mov _ => some 20
  | .regbank _ => some 21
  | .enable _ => some 22
  | .disable _ => some 23
  | .returni _ => some 24
  | .popsp _ => some 25
  | .iostrobe _ => some 26
  | .outputk _ => some 27
  | .inputoutput _ => some 28
  | .input _ => some 29
  | .output _ => some 30
  | .undefined31 _ => some 31
  | _ => none

/-- An instruction with fields has an opcode, and its word is made of the two. -/
theorem encode_of_fields {i : Instr} {f : Fields} (hf : fieldsOf i = some f) :
    ∃ opc, fieldsOpcode i = some opc ∧ ∀ vb, encode vb i = encodeFields opc f := by
  cases i <;> cases hf <;> exact ⟨_, rfl, fun _ => rfl⟩

/-- A normal word with the opcode and the fields of an instruction decodes to it. -/
theorem decodeNormal_of_fields {vb : VariantBit} {w : Word} {i : Instr}
    (hf : fieldsOf i = some (decodeFields w)) (ho : fieldsOpcode i = some (w.extractLsb' 25 5))
    (hwf : i.wf = true) : decodeNormal vb w = .ok i := by
  unfold decodeNormal
  cases i with
  | loop f =>
    cases hf
    have hcopr : w.getLsbD 30 = false := by simpa [Instr.wf, decodeFields] using hwf
    rw [← Option.some.inj ho]
    exact if_neg (Bool.not_eq_true _ ▸ hcopr)
  | _ =>
    cases hf <;>
    · rw [← Option.some.inj ho]
      rfl

theorem decode_of_normal {vb : VariantBit} {w : Word} (hl : Bool) (h : w.getLsbD 31 = false) :
    decode vb hl w = decodeNormal vb w :=
  if_neg (Bool.not_eq_true _ ▸ h)

/-- Decoding undoes encoding for an instruction with fields. -/
theorem decode_encode_of_fields {i : Instr} {f : Fields} (vb : VariantBit) (hl : Bool)
    (hf : fieldsOf i = some f) (hwf : i.wf = true) : decode vb hl (encode vb i) = .ok i := by
  obtain ⟨opc, hopc, hword⟩ := encode_of_fields hf
  rw [hword, decode_of_normal hl (encodeFields_normal opc f)]
  obtain ⟨hextract, -⟩ := encodeFields_extract opc f
  exact decodeNormal_of_fields (by rw [decodeFields_encodeFields, hf]) (by rw [hextract, hopc]) hwf

/-! ### The address form -/

/-- The two mnemonics of each opcode of the address form, for V = 0 and for V = 1 (30_encoding.md R70). -/
inductive AddressRow : BitVec 5 → (Bool → Addr → Instr) → (Bool → Addr → Instr) → Prop
  | branch : AddressRow 2 .b .jb
  | branchOnCf : AddressRow 3 .bcf0 .bcf1
  | branchOnZf : AddressRow 4 .bzf0 .bzf1
  | branchOnC : AddressRow 5 .bc0 .bc1
  | call : AddressRow 6 .call .jcall
  | callOnZf : AddressRow 7 .call0 .call1

/-- Every bit of 24 to 16 but the one of `B=LSH` and the variant bit is 0 (30_encoding.md R64). -/
def BesideAddressClear (vb : VariantBit) (w : Word) : Prop :=
  ∀ k ∈ ([16, 17, 18, 19, 20, 21, 22, 24] : List Nat), k ≠ vb.pos → w.getLsbD k = false

theorem mem_besideAddress_iff {k : Nat} :
    k ∈ ([16, 17, 18, 19, 20, 21, 22, 24] : List Nat) ↔ 16 ≤ k ∧ k ≤ 24 ∧ k ≠ 23 := by
  simp only [List.mem_cons, List.not_mem_nil, or_false]
  omega

/-- The decoder's mask over bits 24 to 16 leaves out the bits of `B=LSH` and the variant bit. -/
theorem besideAddress_mask_getLsbD (vb : VariantBit) {j : Nat} (hj : j < 9) :
    (~~~(0x080#9 ||| (1#9 <<< (vb.pos - 16)))).getLsbD j = decide (j ≠ 7 ∧ 16 + j ≠ vb.pos) := by
  cases vb <;> interval_cases j <;> rfl

theorem besideAddress_mask_eq_zero_iff (vb : VariantBit) (w : Word) :
    w.extractLsb' 16 9 &&& ~~~(0x080#9 ||| (1#9 <<< (vb.pos - 16))) = 0 ↔ BesideAddressClear vb w := by
  have bits {j : Nat} (hj : j < 9) :
      (w.extractLsb' 16 9 &&& ~~~(0x080#9 ||| (1#9 <<< (vb.pos - 16)))).getLsbD j =
        (w.getLsbD (16 + j) && decide (j ≠ 7 ∧ 16 + j ≠ vb.pos)) := by
    rw [BitVec.getLsbD_and, besideAddress_mask_getLsbD vb hj, BitVec.getLsbD_extractLsb',
      decide_eq_true hj, Bool.true_and]
  constructor
  · intro h k hk hne
    obtain ⟨hlo, hhi, h23⟩ := mem_besideAddress_iff.mp hk
    obtain ⟨j, rfl⟩ := Nat.exists_eq_add_of_le hlo
    have hj := bits (j := j) (by omega)
    rw [h, decide_eq_true ⟨by omega, hne⟩, Bool.and_true] at hj
    exact hj.symm.trans BitVec.getLsbD_zero
  · intro h
    refine BitVec.eq_of_getLsbD_eq fun j hj => ?_
    rw [bits hj]
    by_cases hout : j ≠ 7 ∧ 16 + j ≠ vb.pos
    · simp [h (16 + j) (mem_besideAddress_iff.mpr (by omega)) hout.2]
    · simp [hout]

variable {vb : VariantBit} {w : Word} {mk0 mk1 : Bool → Addr → Instr}

theorem decodeAddress_of_copr (h : w.getLsbD 30 = true) :
    decodeAddress vb w mk0 mk1 = .error .coprInBranch :=
  if_pos h

theorem decodeAddress_of_not_clear (h : w.getLsbD 30 = false) (hc : ¬ BesideAddressClear vb w) :
    decodeAddress vb w mk0 mk1 = .error .fieldWithAddress :=
  (if_neg (Bool.not_eq_true _ ▸ h)).trans (if_pos (mt (besideAddress_mask_eq_zero_iff vb w).mp hc))

theorem decodeAddress_of_clear (h : w.getLsbD 30 = false) (hc : BesideAddressClear vb w) :
    decodeAddress vb w mk0 mk1 =
      .ok ((if w.getLsbD vb.pos then mk1 else mk0) (w.getLsbD 23) (w.extractLsb' 0 16)) := by
  have hmask := (besideAddress_mask_eq_zero_iff vb w).mpr hc
  unfold decodeAddress
  rw [h, hmask]
  cases w.getLsbD vb.pos <;> rfl

/-- A normal word with an opcode 2 to 7 is of the address form. -/
theorem exists_addressRow {opc : BitVec 5} (h2 : 2 ≤ opc.toNat) (h7 : opc.toNat ≤ 7) :
    ∃ mk0 mk1, AddressRow opc mk0 mk1 := by
  have hopc : opc = 2 ∨ opc = 3 ∨ opc = 4 ∨ opc = 5 ∨ opc = 6 ∨ opc = 7 := by bv_omega
  obtain rfl | rfl | rfl | rfl | rfl | rfl := hopc
  · exact ⟨_, _, .branch⟩
  · exact ⟨_, _, .branchOnCf⟩
  · exact ⟨_, _, .branchOnZf⟩
  · exact ⟨_, _, .branchOnC⟩
  · exact ⟨_, _, .call⟩
  · exact ⟨_, _, .callOnZf⟩

theorem decodeNormal_of_addressRow (hrow : AddressRow (w.extractLsb' 25 5) mk0 mk1) :
    decodeNormal vb w = decodeAddress vb w mk0 mk1 := by
  unfold decodeNormal
  generalize w.extractLsb' 25 5 = opc at hrow
  cases hrow <;> rfl

theorem encode_of_addressRow {opc : BitVec 5} (hrow : AddressRow opc mk0 mk1) (v lsh : Bool) (g : Addr) :
    encode vb ((if v then mk1 else mk0) lsh g) = encodeAddress vb opc v lsh g := by
  cases hrow <;> cases v <;> rfl

section

variable (vb : VariantBit) (opc : BitVec 5) (v lsh : Bool) (g : Addr)

theorem encodeAddress_normal : (encodeAddress vb opc v lsh g).getLsbD 31 = false := by
  rw [encodeAddress_getLsbD _ _ _ _ _ _ (by decide)]
  cases vb <;> rfl

theorem encodeAddress_copr : (encodeAddress vb opc v lsh g).getLsbD 30 = false := by
  rw [encodeAddress_getLsbD _ _ _ _ _ _ (by decide)]
  cases vb <;> rfl

theorem encodeAddress_lsh : (encodeAddress vb opc v lsh g).getLsbD 23 = lsh := by
  rw [encodeAddress_getLsbD _ _ _ _ _ _ (by decide)]
  cases vb <;> rfl

theorem encodeAddress_variant : (encodeAddress vb opc v lsh g).getLsbD vb.pos = v := by
  rw [encodeAddress_getLsbD _ _ _ _ _ _ (by cases vb <;> decide)]
  cases vb <;> rfl

theorem encodeAddress_opcode_field : (encodeAddress vb opc v lsh g).extractLsb' 25 5 = opc :=
  extractLsb'_eq_of_getLsbD fun k hk => by
    rw [encodeAddress_getLsbD _ _ _ _ _ _ (by omega)]
    cases vb <;> interval_cases k <;> rfl

theorem encodeAddress_target : (encodeAddress vb opc v lsh g).extractLsb' 0 16 = g :=
  extractLsb'_eq_of_getLsbD fun k hk => by
    rw [encodeAddress_getLsbD _ _ _ _ _ _ (by omega), if_pos (by omega), Nat.zero_add]

theorem encodeAddress_clear : BesideAddressClear vb (encodeAddress vb opc v lsh g) := by
  intro k hk hne
  obtain ⟨hlo, hhi, h23⟩ := mem_besideAddress_iff.mp hk
  rw [encodeAddress_getLsbD _ _ _ _ _ _ (by omega), if_neg (by omega), if_neg hne]
  rcases Nat.lt_or_ge k 23 with hlt | hge
  · exact if_pos hlt
  · obtain rfl : k = 24 := by omega
    rfl

end

/-- Decoding undoes encoding for an instruction with an address. -/
theorem decode_encode_of_addressRow {opc : BitVec 5} (hrow : AddressRow opc mk0 mk1) (vb : VariantBit)
    (hl v lsh : Bool) (g : Addr) :
    decode vb hl (encode vb ((if v then mk1 else mk0) lsh g)) =
      .ok ((if v then mk1 else mk0) lsh g) := by
  have hopc := encodeAddress_opcode_field vb opc v lsh g
  rw [encode_of_addressRow hrow, decode_of_normal hl (encodeAddress_normal ..),
    decodeNormal_of_addressRow (hopc.symm ▸ hrow),
    decodeAddress_of_clear (encodeAddress_copr ..) (encodeAddress_clear vb opc v lsh g),
    encodeAddress_variant,
    encodeAddress_lsh, encodeAddress_target]

/-- The parts of an address word make up that word again. -/
theorem encodeAddress_of_clear (h31 : w.getLsbD 31 = false) (h30 : w.getLsbD 30 = false)
    (hc : BesideAddressClear vb w) :
    encodeAddress vb (w.extractLsb' 25 5) (w.getLsbD vb.pos) (w.getLsbD 23) (w.extractLsb' 0 16) = w := by
  refine BitVec.eq_of_getLsbD_eq fun k hk => ?_
  by_cases hv : k = vb.pos
  · rw [hv, encodeAddress_variant]
  by_cases hb : 16 ≤ k ∧ k ≤ 24 ∧ k ≠ 23
  · have hmem := mem_besideAddress_iff.mpr hb
    rw [encodeAddress_clear _ _ _ _ _ k hmem hv, hc k hmem hv]
  · rw [encodeAddress_getLsbD _ _ _ _ _ _ hk, if_neg hv]
    interval_cases k <;> simp_all [-BitVec.getLsbD_eq_getElem]

/-- An address word that decodes has nothing beside its address but `B=LSH` and the variant bit. -/
theorem decodeAddress_eq_ok {i : Instr} (h : decodeAddress vb w mk0 mk1 = .ok i) :
    w.getLsbD 30 = false ∧ BesideAddressClear vb w ∧
      i = (if w.getLsbD vb.pos then mk1 else mk0) (w.getLsbD 23) (w.extractLsb' 0 16) := by
  cases h30 : w.getLsbD 30 with
  | true => cases (decodeAddress_of_copr h30).symm.trans h
  | false =>
    by_cases hc : BesideAddressClear vb w
    · exact ⟨rfl, hc, Except.ok.inj (h.symm.trans (decodeAddress_of_clear h30 hc))⟩
    · cases (decodeAddress_of_not_clear h30 hc).symm.trans h

/-! ### Both directions for every instruction -/

/-- A word outside the address form that decodes has the fields and the opcode of its instruction. -/
theorem fields_of_decodeNormal {i : Instr} (h : decodeNormal vb w = .ok i)
    (hout : ¬ (2 ≤ (w.extractLsb' 25 5).toNat ∧ (w.extractLsb' 25 5).toNat ≤ 7)) :
    fieldsOf i = some (decodeFields w) ∧ fieldsOpcode i = some (w.extractLsb' 25 5) := by
  unfold decodeNormal at h
  split at h
  case h_3 | h_4 | h_5 | h_6 | h_7 | h_8 => omega
  case h_13 hopc =>
    split at h
    · cases h
    · cases h
      exact ⟨rfl, congrArg some (BitVec.eq_of_toNat_eq hopc.symm)⟩
  case h_32 =>
    have hlt := (w.extractLsb' 25 5).isLt
    have hopc : (w.extractLsb' 25 5).toNat = 31 := by grind
    cases h
    exact ⟨rfl, congrArg some (BitVec.eq_of_toNat_eq hopc.symm)⟩
  all_goals
    next hopc =>
    cases h
    exact ⟨rfl, congrArg some (BitVec.eq_of_toNat_eq hopc.symm)⟩

/-- Encoding undoes decoding for every normal word (30_encoding.md R61, R64, R69, R70). -/
theorem encode_of_decode {hl : Bool} {i : Instr} (h31 : w.getLsbD 31 = false)
    (h : decode vb hl w = .ok i) : encode vb i = w := by
  rw [decode_of_normal hl h31] at h
  by_cases haddr : 2 ≤ (w.extractLsb' 25 5).toNat ∧ (w.extractLsb' 25 5).toNat ≤ 7
  · obtain ⟨h2, h7⟩ := haddr
    obtain ⟨mk0, mk1, hrow⟩ := exists_addressRow h2 h7
    rw [decodeNormal_of_addressRow hrow] at h
    obtain ⟨h30, hc, rfl⟩ := decodeAddress_eq_ok h
    rw [encode_of_addressRow hrow, encodeAddress_of_clear h31 h30 hc]
  · obtain ⟨hf, hopc⟩ := fields_of_decodeNormal h haddr
    obtain ⟨opc, hopc', hword⟩ := encode_of_fields hf
    obtain rfl := Option.some.inj (hopc.symm.trans hopc')
    rw [hword, encodeFields_decodeFields h31]

/-- The fields an instruction was decoded with are those of its word, and so is its opcode. -/
theorem fields_of_decode {hl : Bool} {i : Instr} {f : Fields} (h : decode vb hl w = .ok i)
    (hf : fieldsOf i = some f) :
    f = decodeFields w ∧ fieldsOpcode i = some (w.extractLsb' 25 5) := by
  cases h31 : w.getLsbD 31 with
  | false =>
    obtain ⟨opc, hopc, hword⟩ := encode_of_fields hf
    have hw : encodeFields opc f = w := (hword vb).symm.trans (encode_of_decode h31 h)
    rw [← hw, decodeFields_encodeFields, (encodeFields_extract opc f).1]
    exact ⟨rfl, hopc⟩
  | true =>
    unfold decode at h
    split_ifs at h
    · cases h
      cases hf
    · cases h
      cases hf

/-! ### Compressed words -/

/-- Every bit of a compressed word, the bit that says whether its low half is compressed being `c`
(30_encoding.md R67). -/
theorem compressedWord_getLsbD (c : Bool) (k k' : BitVec 7) (p p' : Byte) {j : Nat} (hj : j < 32) :
    (1#1 ++ k ++ p ++ bit c ++ k' ++ p' : Word).getLsbD j =
      if j < 8 then p'.getLsbD j else if j < 15 then k'.getLsbD (j - 8) else if j < 16 then c
      else if j < 24 then p.getLsbD (j - 16) else if j < 31 then k.getLsbD (j - 24) else true := by
  refine (BitVec.getLsbD_append ..).trans ?_
  simp only [BitVec.getLsbD_append, bit]
  interval_cases j <;> simp

/-- The opcodes and the operands of the two halves (30_encoding.md R67). -/
theorem compressedWord_extract (c : Bool) (k k' : BitVec 7) (p p' : Byte) :
    (1#1 ++ k ++ p ++ bit c ++ k' ++ p' : Word).extractLsb' 24 7 = k ∧
      (1#1 ++ k ++ p ++ bit c ++ k' ++ p' : Word).extractLsb' 16 8 = p ∧
      (1#1 ++ k ++ p ++ bit c ++ k' ++ p' : Word).extractLsb' 8 7 = k' ∧
      (1#1 ++ k ++ p ++ bit c ++ k' ++ p' : Word).extractLsb' 0 8 = p' := by
  refine ⟨?_, ?_, ?_, ?_⟩
  all_goals
    refine extractLsb'_eq_of_getLsbD fun j hj => ?_
    rw [compressedWord_getLsbD c k k' p p' (by omega)]
    interval_cases j <;> rfl

/-- Which half of a compressed word is read, and how (30_encoding.md R67; 43_compressed.md R191). -/
theorem decode_compressedWord (vb : VariantBit) (hl c : Bool) (k k' : BitVec 7) (p p' : Byte) :
    decode vb hl (1#1 ++ k ++ p ++ bit c ++ k' ++ p') =
      if hl then if c then .ok (.compressedLower k' p') else .error .lowHalfNotCompressed
      else .ok (.compressedUpper k p) := by
  obtain ⟨hk, hp, hk', hp'⟩ := compressedWord_extract c k k' p p'
  have h31 := compressedWord_getLsbD c k k' p p' (j := 31) (by decide)
  have h15 := compressedWord_getLsbD c k k' p p' (j := 15) (by decide)
  rw [decode, h31, h15, hk, hp, hk', hp']
  rfl

/-- The word of a lone upper half is a compressed word whose low half is 0 (log 18). -/
theorem encode_compressedUpper (vb : VariantBit) (k : BitVec 7) (p : Byte) :
    encode vb (.compressedUpper k p) = 1#1 ++ k ++ p ++ bit false ++ 0#7 ++ 0#8 := by
  refine BitVec.eq_of_getLsbD_eq fun j hj => ?_
  rw [compressedUpper_getLsbD vb k p j hj, compressedWord_getLsbD _ _ _ _ _ hj]
  interval_cases j <;> rfl

/-- The word of a lone lower half has 0 in its upper opcode and operand (log 18). -/
theorem encode_compressedLower (vb : VariantBit) (k : BitVec 7) (p : Byte) :
    encode vb (.compressedLower k p) = 1#1 ++ 0#7 ++ 0#8 ++ bit true ++ k ++ p := by
  refine BitVec.eq_of_getLsbD_eq fun j hj => ?_
  rw [compressedLower_getLsbD vb k p j hj, compressedWord_getLsbD _ _ _ _ _ hj]
  interval_cases j <;> rfl

/-! ### The statements about the encoding -/

/-- Settles O1, one form after the other: fields, address, and the two halves of a compressed word. -/
theorem decodeOfEncode : Obligations.DecodeOfEncode := by
  intro vb i hwf
  cases i with
  | b l g => exact decode_encode_of_addressRow .branch vb _ false l g
  | jb l g => exact decode_encode_of_addressRow .branch vb _ true l g
  | bcf0 l g => exact decode_encode_of_addressRow .branchOnCf vb _ false l g
  | bcf1 l g => exact decode_encode_of_addressRow .branchOnCf vb _ true l g
  | bzf0 l g => exact decode_encode_of_addressRow .branchOnZf vb _ false l g
  | bzf1 l g => exact decode_encode_of_addressRow .branchOnZf vb _ true l g
  | bc0 l g => exact decode_encode_of_addressRow .branchOnC vb _ false l g
  | bc1 l g => exact decode_encode_of_addressRow .branchOnC vb _ true l g
  | call l g => exact decode_encode_of_addressRow .call vb _ false l g
  | jcall l g => exact decode_encode_of_addressRow .call vb _ true l g
  | call0 l g => exact decode_encode_of_addressRow .callOnZf vb _ false l g
  | call1 l g => exact decode_encode_of_addressRow .callOnZf vb _ true l g
  | compressedUpper k p =>
    rw [encode_compressedUpper]
    exact decode_compressedWord vb false false k 0#7 p 0#8
  | compressedLower k p =>
    rw [encode_compressedLower]
    exact decode_compressedWord vb true true 0#7 k 0#8 p
  | _ f => exact decode_encode_of_fields vb _ rfl hwf

/-- Settles O2. That what decodes is well formed holds of every word. -/
theorem normalWordReencodes : Obligations.NormalWordReencodes :=
  fun _ _ _ _ h31 h => ⟨encode_of_decode h31 h, Machine.decode_wf h⟩

/-- Settles O3, by the decoder's own reading of the bits. -/
theorem singleBitFields : Obligations.SingleBitFields := by
  intro vb hl w i f h hf
  obtain ⟨rfl, -⟩ := fields_of_decode h hf
  exact ⟨rfl, rfl, rfl, rfl, rfl, rfl⟩

/-- Both mnemonics of an opcode of the address form carry `B=LSH`, and V tells them apart. -/
theorem lshOf_variantOf_of_addressRow {opc : BitVec 5} (hrow : AddressRow opc mk0 mk1) (v lsh : Bool)
    (g : Addr) :
    lshOf ((if v then mk1 else mk0) lsh g) = some lsh ∧
      variantOf ((if v then mk1 else mk0) lsh g) = some v := by
  cases hrow <;> cases v <;> exact ⟨rfl, rfl⟩

/-- Settles O5, by the three outcomes of an address word. -/
theorem addressFormExclusions : Obligations.AddressFormExclusions := by
  intro vb hl w h31 h2 h7
  obtain ⟨mk0, mk1, hrow⟩ := exists_addressRow h2 h7
  rw [decode_of_normal hl h31, decodeNormal_of_addressRow hrow]
  split_ifs with h30 hc
  · exact decodeAddress_of_copr h30
  · exact ⟨_, decodeAddress_of_clear (Bool.eq_false_iff.mpr h30) hc,
      lshOf_variantOf_of_addressRow hrow ..⟩
  · exact decodeAddress_of_not_clear (Bool.eq_false_iff.mpr h30) hc

/-- Settles O4: the low half is compressed in the first two words and not in the third. -/
theorem compressedHalvesDecode : Obligations.CompressedHalvesDecode := fun vb k k' p p' =>
  ⟨decode_compressedWord vb false true k k' p p', decode_compressedWord vb true true k k' p p',
    decode_compressedWord vb true false k k' p p'⟩

/-- Settles O6, by evaluating the decoder on each word. -/
theorem workedEncodings : Obligations.WorkedEncodings := by
  constructor
  all_goals
    and_intros
    all_goals decide

end Sys2Proof
end

section
/-!
The datapath over whole numbers (40_datapath_fields.md R92 to R99, R113): the adder inputs, the sum, the divide
step, ANS and the bit that enters C are those of the second reading in `Sys2Proof.Spec`.
-/

namespace Sys2Proof.Machine

open Spec

/-! ### Shifted bytes -/

/-- A byte shifted left with a bit entering (40_datapath_fields.md R102, R105). -/
theorem toNat_shiftLeft (x : Byte) (v : BitVec 1) :
    (x.extractLsb' 0 7 ++ v).toNat = x.toNat % 128 * 2 + v.toNat := by
  rw [BitVec.toNat_append, ← Nat.shiftLeft_add_eq_or_of_lt v.isLt, Nat.shiftLeft_eq,
    BitVec.extractLsb'_toNat, Nat.shiftRight_zero]

/-- A byte shifted right with a bit entering (40_datapath_fields.md R103, R106). -/
theorem toNat_shiftRight (v : BitVec 1) (x : Byte) :
    (v ++ x.extractLsb' 1 7).toNat = v.toNat * 128 + x.toNat / 2 := by
  have hlt := x.isLt
  rw [BitVec.toNat_append, ← Nat.shiftLeft_add_eq_or_of_lt (BitVec.isLt _), Nat.shiftLeft_eq,
    BitVec.extractLsb'_toNat, Nat.shiftRight_eq_div_pow]
  omega

theorem toNat_topBit (x : Byte) : (x.extractLsb' 7 1).toNat = x.toNat / 128 := by
  have hlt := x.isLt
  rw [BitVec.extractLsb'_toNat, Nat.shiftRight_eq_div_pow]
  omega

theorem toNat_lowBit (x : Byte) : (x.extractLsb' 0 1).toNat = x.toNat % 2 := by
  rw [BitVec.extractLsb'_toNat, Nat.shiftRight_zero]

theorem toNat_lowByte (v : Addr) : (v.extractLsb' 0 8).toNat = v.toNat % 256 := by
  rw [BitVec.extractLsb'_toNat, Nat.shiftRight_zero]

theorem toNat_highByte (v : Addr) : (v.extractLsb' 8 8).toNat = v.toNat / 256 := by
  have hlt := v.isLt
  rw [BitVec.extractLsb'_toNat, Nat.shiftRight_eq_div_pow]
  omega

theorem getLsbD_zero_eq {n : Nat} (x : BitVec n) : x.getLsbD 0 = decide (x.toNat % 2 = 1) :=
  Nat.testBit_zero ..

theorem toNat_getLsbD_zero {n : Nat} (x : BitVec n) : (x.getLsbD 0).toNat = x.toNat % 2 := by
  rw [getLsbD_zero_eq]
  rcases Nat.mod_two_eq_zero_or_one x.toNat with h | h <;> simp [h]

theorem getLsbD_seven_eq (x : Byte) : x.getLsbD 7 = decide (128 ≤ x.toNat) := by
  have hlt := x.isLt
  rw [BitVec.getLsbD, Nat.testBit_eq_decide_div_mod_eq, decide_eq_decide]
  omega

theorem toNat_bit (v : Bool) : (bit v).toNat = v.toNat := BitVec.toNat_ofBool v

/-! ### The adder -/

section

variable (f : Fields) (s : State)

theorem left_toNat : (left f s).toNat = leftIn f s := by
  have hgate : (f.mul && !s.c.getLsbD 0) = true ↔ f.mul = true ∧ s.c.toNat % 2 = 0 := by
    simp [getLsbD_zero_eq, -BitVec.getLsbD_eq_getElem]
  unfold left leftIn leftSelected
  simp only [hgate]
  split
  · rfl
  · cases f.addl with
    | zero | a => rfl
    | diva => exact (toNat_shiftLeft ..).trans (by rw [toNat_topBit])
    | n => exact lowByte_toNat f s

theorem right_toNat : (right f s).toNat = rightIn f s := by
  unfold right rightIn
  split
  · rw [BitVec.toNat_not, rightSelected_toNat]
  · exact rightSelected_toNat f s

theorem carryIn_eq :
    carryIn f s = decide ((f.cfin = true ∧ s.cf = true) ∨ f.one = true) := by
  simp [carryIn]

theorem sum9_toNat : (sum9 f s).toNat = total f s := by
  have hl := (left f s).isLt
  have hr := (right f s).isLt
  have hcin : (bit (carryIn f s)).toNat =
      if (f.cfin = true ∧ s.cf = true) ∨ f.one = true then 1 else 0 := by
    rw [toNat_bit, carryIn_eq]
    split <;> simp [*]
  have hle := Bool.toNat_le (carryIn f s)
  rw [← toNat_bit] at hle
  rw [total, ← hcin, ← left_toNat, ← right_toNat, sum9]
  simp only [BitVec.toNat_add, BitVec.toNat_setWidth]
  omega

theorem total_lt : total f s < 512 := sum9_toNat f s ▸ (sum9 f s).isLt

theorem carryOut_toNat : (carryOut f s).toNat = total f s / 256 := by
  have hlt := total_lt f s
  rw [carryOut, BitVec.getLsbD, Nat.testBit_eq_decide_div_mod_eq, sum9_toNat]
  rcases Nat.lt_or_ge (total f s) 256 with h | h
  · simp [Nat.div_eq_of_lt h]
  · have h1 : total f s / 256 = 1 := by omega
    simp [h1]

theorem sum_toNat : ((sum9 f s).setWidth 8).toNat = total f s % 256 := by
  rw [BitVec.toNat_setWidth, sum9_toNat]

/-! ### The divide step -/

theorem lookup_divIn : s.cfg.divStep.lookup (divIn f s) = divListed f s := by
  have hright : right f s = BitVec.ofNat 8 (rightIn f s) := by
    rw [← right_toNat, BitVec.ofNat_toNat, BitVec.setWidth_eq]
  rw [divListed, divIn, hright, carryIn_eq]

end

section

variable {f : Fields} {s : State}

/-- In a divide step the multiply gate is open: MUL with `ADDL=DIVA` is refused (40_datapath_fields.md R93). -/
theorem left_diva (hd : f.addl = .diva) (hm : f.mul = false) :
    left f s = s.a.extractLsb' 0 7 ++ s.b.extractLsb' 7 1 := by
  simp [left, hm, leftSelected, hd]

theorem divRestoring_eq (hd : f.addl = .diva) (hm : f.mul = false) :
    divRestoring (divIn f s) =
      { ans := if s.a.getLsbD 7 || carryOut f s then (sum9 f s).setWidth 8 else left f s,
        q := s.a.getLsbD 7 || carryOut f s } := by
  rw [left_diva hd hm, carryOut, sum9, left_diva hd hm]
  rfl

/-- The divide step of the second reading (40_datapath_fields.md R99). -/
theorem divOut_toNat (hd : f.addl = .diva) (hm : f.mul = false) :
    (divOut f s).q.toNat = quotient f s ∧ (divOut f s).ans.toNat = sumOrRest f s := by
  unfold divOut
  rw [lookup_divIn, sumOrRest, if_pos hd]
  have hq : (s.a.getLsbD 7 || carryOut f s).toNat =
      if 128 ≤ s.a.toNat then 1 else total f s / 256 := by
    rw [← carryOut_toNat, getLsbD_seven_eq]
    split <;> simp [*]
  cases hx : divListed f s with
  | some x => simp [quotient, hx]
  | none =>
    simp only [quotient, hx, Option.getD_none, divRestoring_eq hd hm, hq, true_and]
    rw [← hq]
    cases s.a.getLsbD 7 || carryOut f s
    · simp [left_toNat]
    · exact sum_toNat f s

/-- MUL with `ADDL=DIVA` does not complete (40_datapath_fields.md R93). -/
theorem mul_eq_false_of_diva {k : AluOp} (h : fieldRefusal k f = none) (hd : f.addl = .diva) :
    f.mul = false := by
  obtain ⟨hno, -⟩ := ite_some_eq_none.mp h
  exact Bool.eq_false_iff.mpr fun hm => hno ⟨hm, hd⟩

theorem sumAns_toNat {k : AluOp} (h : fieldRefusal k f = none) :
    (sumAns f s).toNat = sumOrRest f s := by
  by_cases hd : f.addl = .diva
  · rw [sumAns_diva hd]
    exact (divOut_toNat hd (mul_eq_false_of_diva h hd)).2
  · rw [sumAns_plain hd, sumOrRest, if_neg hd, sum_toNat]

theorem shiftInBit_toNat (hd : f.addl ≠ .diva) : (shiftInBit f s).toNat = shiftedIn f s := by
  unfold shiftInBit shiftedIn
  rw [if_neg hd]
  cases s.cfg.shiftIn with
  | cout => exact carryOut_toNat f s
  | fixed v => rfl
  | unknown => exact toNat_getLsbD_zero _

theorem quotientBit_toNat {k : AluOp} (h : fieldRefusal k f = none) :
    (quotientBit f s).toNat = shiftedIn f s := by
  by_cases hd : f.addl = .diva
  · rw [quotientBit_diva hd, shiftedIn, if_pos hd]
    exact (divOut_toNat hd (mul_eq_false_of_diva h hd)).1
  · rw [quotientBit_plain hd, shiftInBit_toNat hd]

end

/-! ### ANS -/

theorem iravByte_toNat (s : State) :
    (iravByte s 0).toNat = iravPart s (· % 256) ∧ (iravByte s 8).toNat = iravPart s (· / 256) := by
  unfold iravByte iravPart
  cases s.irav with
  | none => exact ⟨rfl, rfl⟩
  | some v => exact ⟨toNat_lowByte v, toNat_highByte v⟩

/-- The byte an input reads (44_io_opcodes.md R212). -/
theorem inByte_toNat {s : State} {z : Nibble} {v : Byte} (h : inByte s z = .ok v) :
    v.toNat = inputByte z.toNat s := by
  obtain ⟨hlow, hhigh⟩ := iravByte_toNat s
  unfold inByte at h
  split at h
  case h_1 hz =>
    cases h
    rw [hz]
    rfl
  case h_2 hz =>
    split at h
    · next u stk hs =>
      cases h
      rw [hz, inputByte, hs]
      exact toNat_lowByte u
    · cases h
  case h_3 hz =>
    split at h
    · next u stk hs =>
      cases h
      rw [hz, inputByte, hs]
      exact toNat_highByte u
    · cases h
  case h_4 hz =>
    cases h
    rw [hz, hlow, inputByte]
  case h_5 hz =>
    cases h
    rw [hz, hhigh]
    rfl
  case h_6 => cases h

theorem ans_toNat {i : Instr} {f : Fields} {s t : State} (h : exec i s = .next t)
    (hf : fieldsOf i = some f) : (ans (aluOf i s) f s).toNat = answer i f s := by
  obtain ⟨hno, -⟩ := (exec_next h).fields f hf
  cases i with
  | and | xor | or =>
    simp only [aluOf, ans, answer, BitVec.toNat_and, BitVec.toNat_xor, BitVec.toNat_or, left_toNat,
      right_toNat]
  | input g | inputoutput g =>
    cases hf
    obtain ⟨v, hv, -⟩ := inputWord_next h
    simp only [aluOf, hv, ans, answer]
    rw [inByte_toNat hv, zNum_toNat]
  | _ => cases hf <;> exact sumAns_toNat hno

end Sys2Proof.Machine
end

section
/-!
B, C and D after every instruction (40_datapath_fields.md R101 to R109; 30_encoding.md R72, R73): what the B/C
code and DANS select, in the second reading, and that nothing but the fields writes these registers.
-/

namespace Sys2Proof.Machine

open Spec

/-! ### What the fields make of the registers -/

/-- B by the source the B/C code names, in place of the code's bits (30_encoding.md R72). -/
theorem newB_eq (i : Instr) (f : Fields) (s : State) :
    newB i f s =
      match f.bc.bSrc with
      | .keep => s.b.toNat
      | .ans => answer i f s
      | .lsh => s.b.toNat % 128 * 2 + s.c.toNat / 128
      | .rsh => total f s / 256 * 128 + answer i f s / 2
      | .reg => s.reg.toNat := by
  unfold newB bSel
  cases f.bc <;> rfl

/-- C by the source the B/C code names, in place of the code's bits (30_encoding.md R72). -/
theorem newC_eq (i : Instr) (f : Fields) (s : State) :
    newC i f s =
      match f.bc.cSrc with
      | .keep => s.c.toNat
      | .ans => answer i f s
      | .lsh => s.c.toNat % 128 * 2 + shiftedIn f s
      | .rsh => answer i f s % 2 * 128 + s.c.toNat / 2
      | .reg => s.reg.toNat := by
  unfold newC cSel
  cases f.bc <;> rfl

section

variable {k : AluOp} {i : Instr} {f : Fields} {s : State}

theorem nextB_toNat (hans : (ans k f s).toNat = answer i f s) : (nextB k f s).toNat = newB i f s := by
  rw [newB_eq, nextB]
  cases f.bc.bSrc with
  | keep | reg => rfl
  | ans => exact hans
  | lsh => exact (toNat_shiftLeft ..).trans (by rw [toNat_topBit])
  | rsh => exact (toNat_shiftRight ..).trans (by rw [toNat_bit, carryOut_toNat, hans])

theorem nextC_toNat (hno : fieldRefusal k f = none) (hans : (ans k f s).toNat = answer i f s) :
    (nextC k f s).toNat = newC i f s := by
  rw [newC_eq, nextC]
  cases f.bc.cSrc with
  | keep | reg => rfl
  | ans => exact hans
  | lsh => exact (toNat_shiftLeft ..).trans (by rw [toNat_bit, quotientBit_toNat hno])
  | rsh => exact (toNat_shiftRight ..).trans (by rw [toNat_lowBit, hans])

/-- Only the opcode D=REG makes `D=ANS` write REG (41_opcodes_alu_misc.md R132). -/
theorem aluOf_eq_dReg_iff (hf : fieldsOf i = some f) : aluOf i s = .dReg ↔ i = .dReg f := by
  cases i with
  | input g | inputoutput g =>
    simp only [aluOf]
    cases inByte s (zNum g s) <;> simp
  | _ => cases hf <;> simp [aluOf]

/-! ### Which effect an instruction has -/

theorem fieldsEffect_of_fields (hf : fieldsOf i = some f) :
    fieldsEffect i s = datapath (aluOf i s) f s := by
  simp only [fieldsEffect, hf]

theorem fieldsEffect_of_lsh {lsh : Bool} (hl : lshOf i = some lsh) :
    fieldsEffect i s = addressDatapath lsh s := by
  obtain ⟨hf, -⟩ := effectOf_of_lsh s hl
  simp only [fieldsEffect, hf, hl]

theorem fieldsEffect_of_none (hf : fieldsOf i = none) (hl : lshOf i = none) : fieldsEffect i s = s := by
  simp only [fieldsEffect, hf, hl]

end

section

variable {i : Instr} {s t : State}

theorem Completes.b_eq (c : Completes i s t) : t.b = (fieldsEffect i s).b :=
  c.effect State.b (fun _ _ => rfl) fun _ => rfl

theorem Completes.c_eq (c : Completes i s t) : t.c = (fieldsEffect i s).c :=
  c.effect State.c (fun _ _ => rfl) fun _ => rfl

theorem Completes.d_eq (c : Completes i s t) : t.d = (fieldsEffect i s).d :=
  c.effect State.d (fun _ _ => rfl) fun _ => rfl

/-- An instruction without fields has at most `B=LSH`, so it leaves C and D alone (30_encoding.md R64). -/
theorem fieldsEffect_of_no_fields (hf : fieldsOf i = none) :
    (fieldsEffect i s).c = s.c ∧ (fieldsEffect i s).d = s.d := by
  cases hl : lshOf i with
  | none => rw [fieldsEffect_of_none hf hl]; exact ⟨rfl, rfl⟩
  | some lsh => rw [fieldsEffect_of_lsh hl]; exact ⟨rfl, rfl⟩

end

/-! ### The statements about B, C and D -/

/-- Settles O15, form by form: fields, address, compressed. -/
theorem registerB : Obligations.RegisterB := by
  intro i s t h
  have hb := (exec_next h).b_eq
  refine ⟨fun f hf => ?_, fun l hl => ?_, fun hf hl => ?_⟩
  · rw [hb, fieldsEffect_of_fields hf, datapath_b]
    exact nextB_toNat (ans_toNat h hf)
  · rw [hb, fieldsEffect_of_lsh hl, addressDatapath_b]
    cases l with
    | true => exact (toNat_shiftLeft ..).trans (by rw [toNat_topBit]; rfl)
    | false => rfl
  · rw [hb, fieldsEffect_of_none hf hl]

/-- Settles O16. What completes has no MUL with `ADDL=DIVA`, so the quotient bit is that of R99. -/
theorem registerC : Obligations.RegisterC := by
  intro i s t h
  have c := exec_next h
  refine ⟨fun f hf => ?_, fun hf => c.c_eq.trans (fieldsEffect_of_no_fields hf).1⟩
  obtain ⟨hno, -⟩ := c.fields f hf
  rw [c.c_eq, fieldsEffect_of_fields hf, datapath_c]
  exact nextC_toNat hno (ans_toNat h hf)

/-- D=REG is the opcode 14 (30_encoding.md R70). -/
theorem eq_dReg_iff_opcode {i : Instr} {f : Fields} (hf : fieldsOf i = some f) :
    i = .dReg f ↔ fieldsOpcode i = some 14 := by
  cases i <;> cases hf <;> simp [fieldsOpcode]

/-- Settles O17. The first part is the decoder's reading of the word; the second goes by DANS and the opcode. -/
theorem registerD : Obligations.RegisterD := by
  refine ⟨fun vb hl w i f h hf => ?_, fun i s t h => ?_⟩
  · obtain ⟨hfields, hopc⟩ := fields_of_decode h hf
    rw [eq_dReg_iff_opcode hf, hopc, Option.some_inj, ← BitVec.toNat_inj, hfields]
    exact ⟨rfl, Iff.rfl⟩
  · have c := exec_next h
    refine ⟨fun f hf => ?_, fun hf => c.d_eq.trans (fieldsEffect_of_no_fields hf).2⟩
    have hd : t.d = nextD (aluOf i s) f s := by rw [c.d_eq, fieldsEffect_of_fields hf, datapath_d]
    have hop := aluOf_eq_dReg_iff (s := s) hf
    refine ⟨fun hdans hi => ?_, fun hdans hi => ?_, fun hdans => ?_⟩
    · rw [hd, nextD, if_pos hdans, if_pos (hop.mpr hi)]
    · rw [hd, nextD, if_pos hdans, if_neg (mt hop.mp hi), ans_toNat h hf]
    · rw [hd, nextD, hdans]
      rfl

end Sys2Proof.Machine
end

section
/-!
What a word with fields that completes does to A, CF, ZF and data memory (40_datapath_fields.md R97, R98, R100,
R110): beside B, C and D the rest of `Spec.Datapath`, which `exec_datapath` proves once for all instructions.
-/

namespace Sys2Proof.Machine

open Spec

/-! ### The opcode's part in the flags and in STORE -/

section

variable {i : Instr} {f : Fields} {s : State}

theorem aluOf_isLogic (i : Instr) (s : State) : (aluOf i s).isLogic = isLogic i := by
  cases i with
  | input g | inputoutput g =>
    simp only [aluOf]
    cases inByte s (zNum g s) <;> rfl
  | _ => rfl

/-- Only the opcode MOV makes STORE write REG (41_opcodes_alu_misc.md R138). -/
theorem aluOf_eq_mov_iff (hf : fieldsOf i = some f) : aluOf i s = .mov ↔ i = .mov f := by
  cases i with
  | input g | inputoutput g =>
    simp only [aluOf]
    cases inByte s (zNum g s) <;> simp
  | _ => cases hf <;> simp [aluOf]

theorem storeData_eq (hf : fieldsOf i = some f) : storeData (aluOf i s) s = stored i f s := by
  simp only [storeData, stored, aluOf_eq_mov_iff hf]

theorem carryOut_eq (f : Fields) (s : State) : carryOut f s = decide (256 ≤ total f s) := by
  have hlt := total_lt f s
  have hcout := carryOut_toNat f s
  cases hc : carryOut f s <;> simp only [hc, Bool.toNat_true, Bool.toNat_false] at hcout <;>
    simp <;> omega

theorem nextCf_eq (hf : fieldsOf i = some f) : nextCf (aluOf i s) f s = newCf i f s := by
  cases i with
  | add g =>
    cases hf
    exact carryOut_eq f s
  | input g | inputoutput g =>
    simp only [aluOf]
    cases inByte s (zNum g s) <;> rfl
  | _ => rfl

theorem nextZf_eq (hans : (ans (aluOf i s) f s).toNat = answer i f s) :
    nextZf (aluOf i s) f s = newZf i f s := by
  have hzero : ans (aluOf i s) f s = 0#8 ↔ answer i f s = 0 := by rw [← hans, BitVec.toNat_eq]; rfl
  unfold nextZf newZf
  rw [aluOf_isLogic]
  cases isLogic i with
  | false => rfl
  | true => cases f.cfin <;> simp [hzero]

theorem nextA_toNat {k : AluOp} (hans : (ans k f s).toNat = answer i f s) :
    (nextA k f s).toNat = newA i f s := by
  unfold nextA newA
  split
  · exact hans
  · rfl

theorem nextD_toNat (hf : fieldsOf i = some f) (hans : (ans (aluOf i s) f s).toNat = answer i f s) :
    (nextD (aluOf i s) f s).toNat = newD i f s := by
  simp only [nextD, newD, aluOf_eq_dReg_iff hf, apply_ite BitVec.toNat, hans]

/-- STORE writes one byte (40_datapath_fields.md R110). -/
theorem lookup_nextDmem_stored {x : Nat} (hf : fieldsOf i = some f) (hx : StoresTo f s x) :
    (nextDmem (aluOf i s) f s).lookup x = some (stored i f s) := by
  obtain ⟨hstore, rfl⟩ := hx
  rw [nextDmem, if_pos hstore, lookup_store_same, storeData_eq hf]

/-- Every other byte is as before (40_datapath_fields.md R110). -/
theorem lookup_nextDmem_kept {k : AluOp} {x : Nat} (hx : ¬ StoresTo f s x) :
    (nextDmem k f s).lookup x = s.dmem.lookup x := by
  unfold nextDmem
  split
  · next hstore => exact lookup_store_other _ _ fun h => hx ⟨hstore, h⟩
  · rfl

end

/-! ### The datapath of an instruction that completes -/

section

variable {i : Instr} {f : Fields} {s t : State}

theorem Completes.a_eq (c : Completes i s t) : t.a = (fieldsEffect i s).a :=
  c.effect State.a (fun _ _ => rfl) fun _ => rfl

theorem Completes.cf_eq (c : Completes i s t) : t.cf = (fieldsEffect i s).cf :=
  c.effect State.cf (fun _ _ => rfl) fun _ => rfl

theorem Completes.zf_eq (c : Completes i s t) : t.zf = (fieldsEffect i s).zf :=
  c.effect State.zf (fun _ _ => rfl) fun _ => rfl

/-- An instruction without fields has at most `B=LSH`, so it leaves A, the flags and data memory alone
(30_encoding.md R64). -/
theorem unchanged_of_no_fields (h : exec i s = .next t) (hf : fieldsOf i = none) :
    t.a = s.a ∧ t.cf = s.cf ∧ t.zf = s.zf ∧ t.dmem = s.dmem := by
  have c := exec_next h
  rw [c.a_eq, c.cf_eq, c.zf_eq, c.dmem_eq]
  cases hl : lshOf i with
  | none => rw [fieldsEffect_of_none hf hl]; exact ⟨rfl, rfl, rfl, rfl⟩
  | some lsh => rw [fieldsEffect_of_lsh hl]; exact ⟨rfl, rfl, rfl, rfl⟩

/-- A word with fields that completes does what 40_datapath_fields.md R113 says of its fields. -/
theorem exec_datapath (h : exec i s = .next t) (hf : fieldsOf i = some f) : Datapath i f s t := by
  have c := exec_next h
  have hans := ans_toNat h hf
  have heffect := fieldsEffect_of_fields (s := s) hf
  exact {
    a := by rw [c.a_eq, heffect, datapath_a, nextA_toNat hans]
    b := by rw [c.b_eq, heffect, datapath_b, nextB_toNat hans]
    c := by rw [c.c_eq, heffect, datapath_c, nextC_toNat (c.fields f hf).1 hans]
    d := by rw [c.d_eq, heffect, datapath_d, nextD_toNat hf hans]
    cf := by rw [c.cf_eq, heffect, datapath_cf, nextCf_eq hf]
    zf := by rw [c.zf_eq, heffect, datapath_zf, nextZf_eq hans]
    written := fun x hx => by rw [c.dmem_eq, heffect, datapath_dmem, lookup_nextDmem_stored hf hx]
    kept := fun x hx => by rw [c.dmem_eq, heffect, datapath_dmem, lookup_nextDmem_kept hx] }

end

/-! ### The statements about A, the flags and data memory -/

/-- Settles O14. The first part is the decoder's reading of bit 24. -/
theorem registerA : Obligations.RegisterA := by
  refine ⟨fun vb hl w i f h hf => ?_, fun i s t h => ⟨fun f hf => (exec_datapath h hf).a, fun hf => ?_⟩⟩
  · rw [(fields_of_decode h hf).1]
    rfl
  · exact (unchanged_of_no_fields h hf).1

theorem newCf_of_ne_add {i : Instr} (f : Fields) (s : State) (hi : ∀ g, i ≠ .add g) :
    newCf i f s = s.cf := by
  unfold newCf
  split
  · exact absurd rfl (hi _)
  · rfl

/-- Settles O18: `newCf` has one arm that writes, that of ADD. -/
theorem carryFlag : Obligations.CarryFlag := by
  refine fun i s t h => ⟨?_, fun hi => ?_⟩
  · rintro f rfl
    have d := exec_datapath h rfl
    exact ⟨d.cf, d.zf⟩
  · cases hf : fieldsOf i with
    | none => exact (unchanged_of_no_fields h hf).2.1
    | some f => exact (exec_datapath h hf).cf.trans (newCf_of_ne_add f s hi)

/-- Settles O19: under AND, XOR, OR by the value of the CF field; every other word with fields, and every word
without them, keeps ZF. -/
theorem zeroFlag : Obligations.ZeroFlag := by
  refine fun i s t h => ⟨fun hi f hf => ?_, fun hi => ?_⟩
  · rw [(exec_datapath h hf).zf, newZf, if_pos hi]
    exact ⟨fun hcfin => by simp [hcfin], fun hcfin => by simp [hcfin]⟩
  · cases hf : fieldsOf i with
    | none => exact (unchanged_of_no_fields h hf).2.2.1
    | some f =>
      rw [(exec_datapath h hf).zf, newZf, hi]
      rfl

/-- Settles O20. -/
theorem dataMemory : Obligations.DataMemory := by
  refine fun i s t h => ⟨fun f hf x => ?_, fun hf x => ?_⟩
  · have d := exec_datapath h hf
    exact ⟨d.written x, d.kept x⟩
  · obtain ⟨-, -, -, hmem⟩ := unchanged_of_no_fields h hf
    rw [hmem]

end Sys2Proof.Machine
end

section
/-!
REG after a word with fields, and the words of the ALU opcodes, which do what their fields say and nothing else
(40_datapath_fields.md R111 to R113; 41_opcodes_alu_misc.md R130 to R138).
-/

namespace Sys2Proof.Machine

open Spec

/-! ### REG -/

section

variable {k : AluOp} {f : Fields} {s t u : State}

/-- Without a transfer, and not on the way through address 1, the control part leaves REG alone
(40_datapath_fields.md R112; 42_control_transfer.md R176). -/
theorem finish_none_reg (u : State) (hpass : NotPassing s) : (finish s .none u).reg = u.reg :=
  if_neg hpass

/-- A word delivers the byte it read where what follows its datapath step leaves REG alone. -/
theorem withDatapath_reg {rest : State → Result} (h : withDatapath k f s rest = .next t)
    (hrest : rest (datapath k f s) = .next t → t.reg = (datapath k f s).reg) : t.reg = nextReg f s := by
  obtain ⟨-, -, ht⟩ := withDatapath_next h
  exact hrest ht

theorem plainWord_reg {extra : State → State} (h : plainWord k f s extra = .next t)
    (hpass : NotPassing s) (hextra : ∀ u, (extra u).reg = u.reg) : t.reg = nextReg f s := by
  obtain ⟨-, -, rfl⟩ := plainWord_next h
  exact (finish_none_reg _ hpass).trans (hextra _)

theorem inputWord_reg {event : Option Byte → IoEvent} (h : inputWord f s event = .next t)
    (hpass : NotPassing s) : t.reg = nextReg f s := by
  obtain ⟨v, -, -, -, rfl⟩ := inputWord_next h
  exact finish_none_reg _ hpass

theorem returnTaken_reg (h : returnTaken s u .delayed1 = .next t) : t.reg = u.reg := by
  obtain ⟨v, stk, -, -, rfl⟩ := returnTaken_next h
  rfl

theorem next_finish_none_reg {r : Byte} (h : Host.Outcome.next (finish s .none u) = (.next t : Result))
    (hpass : NotPassing s) (hu : u.reg = r) : t.reg = r := by
  cases h
  exact (finish_none_reg u hpass).trans hu

/-- Only a J-type word, RETURNI and REGBANK have a say in REG of their own (40_datapath_fields.md R112). -/
theorem exec_reg {i : Instr} (h : exec i s = .next t) (hf : fieldsOf i = some f) (hpass : NotPassing s)
    (hjret : ∀ g, i ≠ .jret g) (hreturni : ∀ g, i ≠ .returni g) (hregbank : ∀ g, i ≠ .regbank g) :
    t.reg = nextReg f s := by
  cases i with
  | nop | dReg | add | and | xor | or | mov =>
    cases hf
    exact plainWord_reg h hpass fun _ => rfl
  | iX =>
    cases hf
    exact plainWord_reg (extra := fun u => { u with i := xNum f s }) h hpass fun _ => rfl
  | iostrobe =>
    cases hf
    exact plainWord_reg (extra := emit (.ioStrobe (xPortId s) (xOutPort s))) h hpass fun _ => rfl
  | output =>
    cases hf
    exact plainWord_reg (extra := emit (.writeStrobe (xPortId s) (xOutPort s))) h hpass fun _ => rfl
  | outputk =>
    cases hf
    change execOutputk f s = _ at h
    unfold execOutputk at h
    split at h
    · cases h
    · exact withDatapath_reg h fun ht => next_finish_none_reg ht hpass rfl
  | input | inputoutput =>
    cases hf
    exact inputWord_reg h hpass
  | enable | disable =>
    cases hf
    change ite _ _ _ = _ at h
    split at h
    · cases h
    · exact withDatapath_reg h fun ht => next_finish_none_reg ht hpass rfl
  | popsp =>
    cases hf
    change execPopsp f s = _ at h
    refine withDatapath_reg h fun ht => ?_
    obtain ⟨v, stk, -, ht⟩ := popThen_next ht
    exact next_finish_none_reg ht hpass rfl
  | ret =>
    cases hf
    obtain ⟨-, h⟩ := outsideSlot_next h
    exact withDatapath_reg h returnTaken_reg
  | ret0 =>
    cases hf
    obtain ⟨-, h⟩ := outsideSlot_next h
    refine withDatapath_reg h fun ht => ?_
    split at ht
    · exact next_finish_none_reg ht hpass rfl
    · exact returnTaken_reg ht
  | ret1 =>
    cases hf
    obtain ⟨-, h⟩ := outsideSlot_next h
    refine withDatapath_reg h fun ht => ?_
    split at ht
    · exact returnTaken_reg ht
    · exact next_finish_none_reg ht hpass rfl
  | loop =>
    cases hf
    obtain ⟨-, h⟩ := outsideSlot_next h
    split at h
    · cases h
    refine withDatapath_reg h fun ht => ?_
    split_ifs at ht
    · exact next_finish_none_reg ht hpass rfl
    · cases ht
      rfl
  | wait =>
    cases hf
    obtain ⟨-, h⟩ := outsideSlot_next h
    refine withDatapath_reg h fun ht => ?_
    split at ht
    · exact next_finish_none_reg ht hpass rfl
    · cases ht
      rfl
  | undefined15 | undefined31 => nomatch h
  | jret g => exact absurd rfl (hjret g)
  | returni g => exact absurd rfl (hreturni g)
  | regbank g => exact absurd rfl (hregbank g)
  | _ => cases hf

end

/-- Settles O21: what reaches REG is the byte read, unless the word stored to the very address it read. -/
theorem regPipeline : Obligations.RegPipeline := by
  intro i f s t h hf hpass hjret hreturni hregbank hother v hv
  have hkept : ¬ (f.store = true ∧ writeAddress f s = readAddress f s) :=
    fun ⟨hstore, haddr⟩ => hother ⟨hstore, haddr.symm⟩
  rw [exec_reg h hf hpass hjret hreturni hregbank, nextReg, if_neg hkept]
  exact readByte_known hv

/-! ### The words of the ALU opcodes -/

/-- A word without a transfer goes on as 42_control_transfer.md R151 and R176 say. -/
theorem finish_none_falls (s u : State) : Falls s (finish s .none u) := by
  unfold Falls
  split
  case h_1 g hp => constructor <;> simp [nextPc, nextPend, nextInd, nextSeq, hp]
  case h_2 g hp => constructor <;> simp [nextPc, nextPend, nextInd, nextSeq, nextAddr, hp]
  case h_3 hp =>
    split
    · next hind =>
      constructor <;> simp only [finish_pc, finish_pend, finish_ind, finish_seq, finish_gr, nextPc, nextPend,
        nextInd, nextSeq, hp, hind]
      · exact toNat_append_byte s.a s.b
      · rfl
    · next hind => constructor <;> simp [nextPc, nextPend, nextInd, nextSeq, nextAddr, hp, hind]

/-- NOP, D=REG, ADD, AND, XOR, OR, MOV add nothing to their datapath step. -/
theorem exec_eq_plainWord {i : Instr} {f : Fields} (s : State)
    (hi : i ∈ [Instr.nop f, .dReg f, .add f, .and f, .xor f, .or f, .mov f]) :
    fieldsOf i = some f ∧ exec i s = plainWord (aluOf i s) f s id ∧ (aluOf i s).isInput = isInput i := by
  fin_cases hi <;> exact ⟨rfl, rfl, rfl⟩

/-- Settles O34. That such a word completes is `withDatapath_of_allowed`; what it does then is what every word
with fields does. -/
theorem aluWordsComplete : Obligations.AluWordsComplete := by
  intro i f s hi hok ha
  obtain ⟨hf, hexec, hin⟩ := exec_eq_plainWord s hi
  have h : exec i s = .next (finish s .none (datapath (aluOf i s) f s)) :=
    hexec.trans (withDatapath_of_allowed _ (aluOf_isLogic i s) hin hok ha)
  refine ⟨_, h, ⟨exec_datapath h hf, finish_none_falls s _, fun hpass => ?_⟩, rfl⟩
  refine regPipeline i f s _ h hf hpass ?_ ?_ ?_ <;> rintro g rfl <;> simp at hi

end Sys2Proof.Machine
end

section
/-!
One multiply step and one divide step (40_datapath_fields.md R93, R99, R114): what they make of A, B and C, over
whole numbers, under NOP and under WAIT alike.
-/

namespace Sys2Proof.Machine

open Spec

section

variable {i : Instr} {s t : State}

theorem total_multiplyFields (s : State) :
    total multiplyFields s = s.b.toNat + (if s.c.toNat % 2 = 1 then s.a.toNat else 0) := by
  have htotal : total multiplyFields s =
      (if true = true ∧ s.c.toNat % 2 = 0 then 0 else s.a.toNat) + s.b.toNat := rfl
  rw [htotal]
  rcases Nat.mod_two_eq_zero_or_one s.c.toNat with h | h <;> simp [h, Nat.add_comm]

/-- One multiply step: A is added where C's low bit is 1, and (carry, B, C) goes right one place. -/
theorem multiply_step (hi : i = .nop multiplyFields ∨ i = .wait multiplyFields)
    (d : Datapath i multiplyFields s t) :
    256 * t.b.toNat + t.c.toNat =
        (256 * (s.b.toNat + (if s.c.toNat % 2 = 1 then s.a.toNat else 0)) + s.c.toNat) / 2 ∧
      t.a.toNat = s.a.toNat := by
  have hans : answer i multiplyFields s = total multiplyFields s % 256 := by
    rcases hi with rfl | rfl <;> rfl
  have hb : t.b.toNat = total multiplyFields s / 256 * 128 + answer i multiplyFields s / 2 :=
    d.b.trans (newB_eq ..)
  have hc : t.c.toNat = answer i multiplyFields s % 2 * 128 + s.c.toNat / 2 := d.c.trans (newC_eq ..)
  rw [← total_multiplyFields]
  exact ⟨by omega, d.a⟩

/-- The partial remainder of a divide step, 9 bits: A shifted left with B's top bit. -/
def partialRem (s : State) : Nat := 2 * s.a.toNat + s.b.toNat / 128

theorem partialRem_eq (s : State) : partialRem s = 2 * s.a.toNat + s.b.toNat / 128 := rfl

/-- The digit of the quotient that a divide step finds. -/
def quotientDigit (s : State) : Nat := if s.d.toNat ≤ partialRem s then 1 else 0

theorem quotientDigit_spec (s : State) :
    (s.d.toNat ≤ partialRem s ∧ quotientDigit s = 1) ∨ (partialRem s < s.d.toNat ∧ quotientDigit s = 0) := by
  unfold quotientDigit
  split_ifs <;> omega

theorem divListed_default {f : Fields} (hdef : s.cfg.divStep = []) : divListed f s = none := by
  rw [divListed, hdef]
  rfl

theorem total_divideFields (s : State) :
    total divideFields s = s.a.toNat % 128 * 2 + s.b.toNat / 128 + (256 - s.d.toNat) := by
  have hd := s.d.isLt
  have htotal : total divideFields s =
      s.a.toNat % 128 * 2 + s.b.toNat / 128 + (255 - s.d.toNat) + 1 := rfl
  omega

/-- With DivStep at its default the quotient bit is the digit (40_datapath_fields.md R99). -/
theorem quotient_divideFields (hdef : s.cfg.divStep = []) : quotient divideFields s = quotientDigit s := by
  have ha := s.a.isLt
  have hb := s.b.isLt
  have hd := s.d.isLt
  simp only [quotient, divListed_default hdef, total_divideFields]
  have hrem := partialRem_eq s
  have hdigit := quotientDigit_spec s
  split_ifs <;> omega

/-- With DivStep at its default ANS is the partial remainder, reduced by D where the digit is 1. -/
theorem sumOrRest_divideFields (hdef : s.cfg.divStep = []) :
    sumOrRest divideFields s = (partialRem s - quotientDigit s * s.d.toNat) % 256 := by
  have ha := s.a.isLt
  have hb := s.b.isLt
  have hd := s.d.isLt
  have hleft : leftIn divideFields s = s.a.toNat % 128 * 2 + s.b.toNat / 128 := rfl
  have hans : sumOrRest divideFields s =
      if quotient divideFields s = 0 then leftIn divideFields s else total divideFields s % 256 := by
    rw [sumOrRest, if_pos (show divideFields.addl = .diva from rfl), divListed_default hdef]
  rw [hans, quotient_divideFields hdef, total_divideFields, hleft]
  have hrem := partialRem_eq s
  obtain ⟨h, hq⟩ | ⟨h, hq⟩ := quotientDigit_spec s
  · rw [hq, if_neg Nat.one_ne_zero]
    omega
  · rw [hq, if_pos rfl]
    omega

/-- One divide step, for every D: A:B:C goes left one place, the digit enters C, and A is the rest. -/
theorem divide_step (hi : i = .nop divideFields ∨ i = .wait divideFields) (hdef : s.cfg.divStep = [])
    (d : Datapath i divideFields s t) :
    t.a.toNat = (partialRem s - quotientDigit s * s.d.toNat) % 256 ∧
      256 * t.b.toNat + t.c.toNat =
        (256 * s.b.toNat + s.c.toNat) % 32768 * 2 + quotientDigit s := by
  have hans : answer i divideFields s = sumOrRest divideFields s := by rcases hi with rfl | rfl <;> rfl
  have ha : t.a.toNat = answer i divideFields s := d.a
  have hb : t.b.toNat = s.b.toNat % 128 * 2 + s.c.toNat / 128 := d.b.trans (newB_eq ..)
  have hc : t.c.toNat = s.c.toNat % 128 * 2 + quotient divideFields s := d.c.trans (newC_eq ..)
  rw [← sumOrRest_divideFields hdef, ← quotient_divideFields hdef]
  have hlt := s.c.isLt
  exact ⟨ha.trans hans, by omega⟩

/-- Below D the rest is below D again, and no bit of it is lost. -/
theorem rest_lt (h : s.a.toNat < s.d.toNat) :
    partialRem s - quotientDigit s * s.d.toNat < s.d.toNat ∧ quotientDigit s * s.d.toNat ≤ partialRem s := by
  have hb := s.b.isLt
  have hrem := partialRem_eq s
  obtain ⟨hle, hq⟩ | ⟨hlt, hq⟩ := quotientDigit_spec s <;> rw [hq] <;> omega

end

/-- Settles O30. -/
theorem multiplyStep : Obligations.MultiplyStep := by
  intro s t h
  have d := exec_datapath h rfl
  obtain ⟨hbc, ha⟩ := multiply_step (.inl rfl) d
  exact ⟨hbc, BitVec.eq_of_toNat_eq ha, BitVec.eq_of_toNat_eq d.d, d.cf, d.zf⟩

/-- Settles O31: below D the rest fits into A. -/
theorem divideStep : Obligations.DivideStep := by
  intro s t hdef h hlt
  have d := exec_datapath h rfl
  obtain ⟨ha, hbc⟩ := divide_step (.inl rfl) hdef d
  have hrest := (rest_lt hlt).1.trans s.d.isLt
  exact ⟨⟨ha.trans (Nat.mod_eq_of_lt hrest), hbc⟩, BitVec.eq_of_toNat_eq d.d, d.cf, d.zf⟩

end Sys2Proof.Machine
end

section
/-!
WAIT on the multiply step and on the divide step (40_datapath_fields.md R114; 42_control_transfer.md R173). The
repetition is one induction, `repeated_wait`, for any word that neither stores nor writes D and any relation that
each execution takes one further; the two results are two such relations.
-/

namespace Sys2Proof.Machine

open Spec

/-! ### WAIT, again and again -/

/-- A word that can be repeated without a change of what it reads and writes: its fields have a meaning under
WAIT, it neither stores nor writes D, and its data address is a general register's. -/
structure Repeatable (f : Fields) : Prop where
  allowed : FieldsOk (.wait f) f
  noStore : f.store = false
  keepsD : f.dans = false
  register : f.rmode = .xz

/-- What such a word leaves as it was. -/
structure Aside (s t : State) : Prop where
  d : t.d = s.d
  cf : t.cf = s.cf
  zf : t.zf = s.zf
  bank : t.bank = s.bank
  cfg : t.cfg = s.cfg
  kept : ∀ x, t.dmem.lookup x = s.dmem.lookup x

theorem Aside.trans {s t u : State} (h : Aside s t) (h' : Aside t u) : Aside s u where
  d := h'.d.trans h.d
  cf := h'.cf.trans h.cf
  zf := h'.zf.trans h.zf
  bank := h'.bank.trans h.bank
  cfg := h'.cfg.trans h.cfg
  kept x := (h'.kept x).trans (h.kept x)

section

variable {f : Fields} {s t : State}

theorem Repeatable.aside (hf : Repeatable f) (h : exec (.wait f) s = .next t) : Aside s t where
  d := BitVec.eq_of_toNat_eq (by rw [(exec_datapath h rfl).d, newD, hf.keepsD]; rfl)
  cf := (exec_datapath h rfl).cf
  zf := (exec_datapath h rfl).zf
  bank := (exec_next h).bank_eq
  cfg := (exec_next h).cfg_eq
  kept x := (exec_datapath h rfl).kept x fun ⟨hstore, _⟩ => by simp [hf.noStore] at hstore

theorem Repeatable.addressOk_iff (hf : Repeatable f) (s : State) :
    AddressOk f s ↔ 16 * s.bank.toNat + 15 < s.cfg.spadBytes := by
  simp [AddressOk, hf.register]

theorem Repeatable.addressOk_of_aside (hf : Repeatable f) (h : Aside s t) (ha : AddressOk f s) :
    AddressOk f t := by
  rw [hf.addressOk_iff] at ha ⊢
  rwa [h.bank, h.cfg]

/-- Outside a slot an allowed WAIT does its datapath step, and goes on by I (42_control_transfer.md R173). -/
theorem exec_wait (hp : s.pend = none) (hok : FieldsOk (.wait f) f) (ha : AddressOk f s) :
    exec (.wait f) s =
      if s.i = 0 then .next (finish s .none (datapath .plain f s))
      else .next (finish s .again { datapath .plain f s with i := s.i - 1 }) :=
  (outsideSlot_of_none hp).trans (withDatapath_of_allowed _ rfl rfl hok ha)

/-- The last WAIT of a run falls through, with I = 0. -/
theorem exec_wait_last (hp : s.pend = none) (hind : s.ind = false) (hok : FieldsOk (.wait f) f)
    (ha : AddressOk f s) (hi : s.i = 0) :
    ∃ t, exec (.wait f) s = .next t ∧ t.i = 0 ∧ t.pc = s.pc + 1 := by
  refine ⟨_, (exec_wait hp hok ha).trans (if_pos hi), hi, ?_⟩
  rw [finish_none_plain _ hp hind]

/-- A WAIT before the last counts I down and stays where it is. -/
theorem exec_wait_again (hp : s.pend = none) (hok : FieldsOk (.wait f) f) (ha : AddressOk f s)
    (hi : s.i ≠ 0) :
    ∃ t, exec (.wait f) s = .next t ∧ t.i = s.i - 1 ∧ t.pc = s.pc ∧ t.pend = none ∧ t.ind = false :=
  ⟨_, (exec_wait hp hok ha).trans (if_neg hi), rfl, rfl, rfl, rfl⟩

theorem repeated_succ {i : Instr} (n : Nat) (h : exec i s = .next t) :
    repeated i (n + 1) s = repeated i n t := by
  simp only [repeated, h]

/-- WAIT with I = n executes its word n + 1 times: a relation to the number of executions left, which each
execution takes one further, arrives at 0. -/
theorem repeated_wait (hf : Repeatable f) (left : Nat → State → Prop)
    (further : ∀ m s t, left (m + 1) s → exec (.wait f) s = .next t → left m t) (n : Nat) (s : State)
    (hi : s.i.toNat = n) (hp : s.pend = none) (hind : s.ind = false) (ha : AddressOk f s)
    (hleft : left (n + 1) s) :
    ∃ t, repeated (.wait f) (n + 1) s = .next t ∧ left 0 t ∧ Aside s t ∧ t.i = 0 ∧ t.pc = s.pc + 1 := by
  induction n generalizing s with
  | zero =>
    obtain ⟨t, h, hit, hpc⟩ := exec_wait_last hp hind hf.allowed ha (BitVec.eq_of_toNat_eq hi)
    exact ⟨t, repeated_succ 0 h, further 0 s t hleft h, hf.aside h, hit, hpc⟩
  | succ n ih =>
    obtain ⟨t, h, hit, hpc, hpt, hindt⟩ := exec_wait_again hp hf.allowed ha (by rintro h0; simp [h0] at hi)
    have hn : t.i.toNat = n := by rw [hit]; bv_omega
    obtain ⟨u, hu, h0, haside, hiu, hpcu⟩ :=
      ih t hn hpt hindt (hf.addressOk_of_aside (hf.aside h) ha) (further _ s t hleft h)
    exact ⟨u, (repeated_succ _ h).trans hu, h0, (hf.aside h).trans haside, hiu, hpcu.trans (by rw [hpc])⟩

end

/-! ### Multiplication -/

theorem repeatable_multiplyFields : Repeatable multiplyFields := ⟨by decide, rfl, rfl, rfl⟩

/-- With `m` steps left of the multiplication that began in `s₀`, the low `m` bits of C are still to be
multiplied with A: B:C and their product with A in B's place make `2 ^ m` times the result, and those bits
themselves, which leave C. -/
structure MultipliesIn (s₀ : State) (m : Nat) (s : State) : Prop where
  le : m ≤ 8
  a : s.a = s₀.a
  sum : 256 * s.b.toNat + s.c.toNat + 256 * (s.a.toNat * (s.c.toNat % 2 ^ m)) =
    2 ^ m * (s₀.a.toNat * s₀.c.toNat + s₀.b.toNat) + s.c.toNat % 2 ^ m

theorem multipliesIn_start (s : State) : MultipliesIn s 8 s where
  le := le_rfl
  a := rfl
  sum := by
    rw [Nat.mod_eq_of_lt (show s.c.toNat < 2 ^ 8 from s.c.isLt)]
    omega

/-- A step uses up C's low bit: it adds A where the bit is 1, and all that is left moves down one place. -/
theorem MultipliesIn.further {s₀ s t : State} {m : Nat} (h : MultipliesIn s₀ (m + 1) s)
    (hexec : exec (.wait multiplyFields) s = .next t) : MultipliesIn s₀ m t := by
  obtain ⟨hle, ha, hsum⟩ := h
  obtain ⟨hbc, hat⟩ := multiply_step (.inr rfl) (exec_datapath hexec rfl)
  refine ⟨by omega, (BitVec.eq_of_toNat_eq hat).trans ha, ?_⟩
  have hlow : t.c.toNat % 2 ^ m = s.c.toNat / 2 % 2 ^ m := by
    have hc := s.c.isLt
    have hct := t.c.isLt
    have hdvd : 2 ^ m ∣ 128 := pow_dvd_pow 2 (show m ≤ 7 by omega)
    rw [← Nat.mod_mod_of_dvd _ hdvd]
    congr 1
    omega
  have hsplit : s.c.toNat % 2 ^ (m + 1) = s.c.toNat % 2 + 2 * (s.c.toNat / 2 % 2 ^ m) := by
    rw [pow_succ', Nat.mod_mul]
  rw [hsplit, pow_succ', Nat.mul_assoc, Nat.mul_add, Nat.mul_left_comm s.a.toNat 2] at hsum
  rw [hlow, hat]
  rcases Nat.mod_two_eq_zero_or_one s.c.toNat with h2 | h2
  · rw [h2] at hsum
    rw [h2, if_neg Nat.zero_ne_one] at hbc
    omega
  · rw [h2] at hsum
    rw [h2, if_pos rfl] at hbc
    omega

/-- Settles O32: nothing is left of C after eight steps, so B:C holds the result. -/
theorem waitMultiplies : Obligations.WaitMultiplies := by
  intro s hp hind hi haddr
  obtain ⟨t, ht, hleft, haside, hit, hpc⟩ := repeated_wait repeatable_multiplyFields (MultipliesIn s)
    (fun _ _ _ h => h.further) 7 s (by rw [hi]; rfl) hp hind haddr (multipliesIn_start s)
  refine ⟨t, ht, ?_, hleft.a, haside.d, hit, hpc, haside.cf, haside.zf, haside.kept⟩
  simpa [Nat.mod_one] using hleft.sum

/-! ### Division -/

theorem repeatable_divideFields : Repeatable divideFields := ⟨by decide, rfl, rfl, rfl⟩

/-- B and C side by side (40_datapath_fields.md R114). -/
def pair (s : State) : Nat := 256 * s.b.toNat + s.c.toNat

/-- With `m` steps left of the division that began in `s₀`, B:C holds the low `m` bits of the dividend above
the digits found so far, and A the rest of the bits above them. -/
structure QuotientIn (s₀ : State) (m : Nat) (s : State) : Prop where
  rest : s.a.toNat < s₀.d.toNat
  split : ∃ low digits, low < 2 ^ m ∧ digits < 2 ^ (16 - m) ∧ pair s = low * 2 ^ (16 - m) + digits ∧
    pair s₀ = (digits * s₀.d.toNat + s.a.toNat) * 2 ^ m + low

/-- By D = 0 every digit is 1 and nothing is subtracted: A:B:C goes left with ones entering. -/
def OnesIn (s₀ : State) (m : Nat) (s : State) : Prop :=
  (65536 * s.a.toNat + pair s + 1) % 2 ^ 24 = (pair s₀ + 1) * 2 ^ (16 - m) % 2 ^ 24

/-- With `m` steps left of the division that began in `s₀`, by whatever D. -/
structure DividesIn (s₀ : State) (m : Nat) (s : State) : Prop where
  default : s.cfg.divStep = []
  divisor : s.d = s₀.d
  le : m ≤ 16
  quotient : s₀.d ≠ 0 → QuotientIn s₀ m s
  ones : s₀.d = 0 → OnesIn s₀ m s

theorem dividesIn_start {s : State} (hdef : s.cfg.divStep = []) (ha : s.a = 0) : DividesIn s 16 s where
  default := hdef
  divisor := rfl
  le := le_rfl
  quotient hd := by
    have hb := s.b.isLt
    have hc := s.c.isLt
    refine ⟨?_, pair s, 0, ?_, by simp, by simp, by simp [ha]⟩
    · rw [ha]
      exact Nat.pos_of_ne_zero fun h => hd (BitVec.eq_of_toNat_eq h)
    · unfold pair
      omega
  ones _ := by simp [OnesIn, ha]

section

variable {s₀ s t : State} {m : Nat}

/-- The top bit of 16 bits, and the 15 below it, where a digit has been found for each of the lowest. -/
theorem top_split {p j low digits : Nat} (hpj : p * j = 32768) (hdigits : digits < j) :
    (low * j + digits) / 32768 = low / p ∧ (low * j + digits) % 32768 = low % p * j + digits := by
  have hp : 0 < p := Nat.pos_of_ne_zero (by rintro rfl; simp at hpj)
  refine (Nat.div_mod_unique (by decide)).mpr ⟨?_, ?_⟩
  · calc low % p * j + digits + 32768 * (low / p)
        = (p * (low / p) + low % p) * j + digits := by rw [← hpj]; ring
      _ = low * j + digits := by rw [Nat.div_add_mod]
  · calc low % p * j + digits
        < (low % p + 1) * j := by rw [Nat.succ_mul]; omega
      _ ≤ p * j := Nat.mul_le_mul_right j (Nat.mod_lt low hp)
      _ = 32768 := hpj

theorem pair_div (s : State) : pair s / 32768 = s.b.toNat / 128 := by
  have hc := s.c.isLt
  unfold pair
  omega

theorem two_pow_left (h : m + 1 ≤ 16) : 2 ^ (16 - m) = 2 * 2 ^ (16 - (m + 1)) := by
  rw [← pow_succ']
  congr 1
  omega

/-- Long division: the top bit of what is left joins the rest, and one digit joins the digits. -/
theorem QuotientIn.further (h : QuotientIn s₀ (m + 1) s) (hd : s.d = s₀.d) (hm : m + 1 ≤ 16)
    (ha : t.a.toNat = (partialRem s - quotientDigit s * s.d.toNat) % 256)
    (hpair : pair t = pair s % 32768 * 2 + quotientDigit s) : QuotientIn s₀ m t := by
  obtain ⟨hrest, low, digits, hlow, hdigits, hs, hs₀⟩ := h
  obtain ⟨hlt, hle⟩ := rest_lt (hd ▸ hrest)
  rw [Nat.mod_eq_of_lt (hlt.trans s.d.isLt)] at ha
  rw [hd] at ha hlt hle
  have hpj : 2 ^ m * 2 ^ (16 - (m + 1)) = 32768 := by
    rw [← pow_add, show m + (16 - (m + 1)) = 15 by omega]
    rfl
  obtain ⟨htop, hlower⟩ := top_split (low := low) hpj hdigits
  rw [← hs, pair_div] at htop
  rw [← hs] at hlower
  have hdigit := quotientDigit_spec s
  refine ⟨ha ▸ hlt, low % 2 ^ m, 2 * digits + quotientDigit s, Nat.mod_lt _ (by positivity), ?_, ?_, ?_⟩
  · rw [two_pow_left hm]
    omega
  · rw [hpair, hlower, two_pow_left hm]
    ring
  · have hrem : (2 * digits + quotientDigit s) * s₀.d.toNat + t.a.toNat =
        2 * (digits * s₀.d.toNat + s.a.toNat) + low / 2 ^ m := by
      rw [ha, Nat.add_mul, ← htop, Nat.mul_assoc]
      have hshifted := partialRem_eq s
      omega
    rw [hs₀, hrem, pow_succ']
    calc (digits * s₀.d.toNat + s.a.toNat) * (2 * 2 ^ m) + low
        = (digits * s₀.d.toNat + s.a.toNat) * (2 * 2 ^ m) + (2 ^ m * (low / 2 ^ m) + low % 2 ^ m) := by
          rw [Nat.div_add_mod]
      _ = _ := by ring

theorem OnesIn.further (h : OnesIn s₀ (m + 1) s) (hd : s.d = 0) (hm : m + 1 ≤ 16)
    (ha : t.a.toNat = (partialRem s - quotientDigit s * s.d.toNat) % 256)
    (hpair : pair t = pair s % 32768 * 2 + quotientDigit s) : OnesIn s₀ m t := by
  have hzero : s.d.toNat = 0 := by rw [hd]; rfl
  have hrem := partialRem_eq s
  have hdigit := quotientDigit_spec s
  unfold OnesIn at h ⊢
  rw [two_pow_left hm, Nat.mul_left_comm]
  have htop := pair_div s
  rw [hzero, Nat.mul_zero] at ha
  omega

theorem DividesIn.further (h : DividesIn s₀ (m + 1) s) (hexec : exec (.wait divideFields) s = .next t) :
    DividesIn s₀ m t := by
  have haside := repeatable_divideFields.aside hexec
  obtain ⟨ha, hpair⟩ := divide_step (.inr rfl) h.default (exec_datapath hexec rfl)
  exact {
    default := by rw [haside.cfg, h.default]
    divisor := haside.d.trans h.divisor
    le := Nat.le_of_succ_le h.le
    quotient := fun hd => (h.quotient hd).further h.divisor h.le ha hpair
    ones := fun hd => (h.ones hd).further (h.divisor.trans hd) h.le ha hpair }

theorem QuotientIn.result (h : QuotientIn s 0 t) :
    pair t = pair s / s.d.toNat ∧ t.a.toNat = pair s % s.d.toNat := by
  obtain ⟨hrest, low, digits, hlow, -, ht, hs⟩ := h
  obtain rfl : low = 0 := by omega
  have hdiv : pair s / s.d.toNat = digits ∧ pair s % s.d.toNat = t.a.toNat :=
    (Nat.div_mod_unique (by omega)).mpr ⟨by rw [hs]; ring, hrest⟩
  exact ⟨by rw [hdiv.1, ht]; simp, hdiv.2.symm⟩

theorem OnesIn.result (h : OnesIn s 0 t) : t.b = 0xFF ∧ t.c = 0xFF ∧ t.a = s.c := by
  unfold OnesIn pair at h
  bv_omega

end

/-- Settles O33: after sixteen steps no bit of the dividend is left in B:C. -/
theorem waitDivides : Obligations.WaitDivides := by
  intro s hdef hp hind hi ha haddr
  obtain ⟨t, ht, hleft, haside, hit, hpc⟩ := repeated_wait repeatable_divideFields (DividesIn s)
    (fun _ _ _ h => h.further) 15 s (by rw [hi]; rfl) hp hind haddr (dividesIn_start hdef ha)
  exact ⟨t, ht, fun hd => (hleft.quotient hd).result, fun hd => (hleft.ones hd).result, haside.d, hit, hpc,
    haside.cf, haside.zf, haside.kept⟩

end Sys2Proof.Machine
end

section
/-!
The words that load a nibble register from X, and the opcodes without a meaning (41_opcodes_alu_misc.md R131,
R133, R140): I=X and REGBANK are plain words with one effect of their own, REGBANK behind two checks.
-/

namespace Sys2Proof.Machine

open Spec

/-- X is the upper half of the low byte (30_encoding.md R62). -/
theorem xNum_eq_ofNat (f : Fields) (s : State) : xNum f s = BitVec.ofNat 4 (low f s / 16) := by
  rw [← xNum_toNat]
  simp

/-- A plain word whose fields and addresses the second reading allows completes. -/
theorem plainWord_of_allowed {k : AluOp} {i : Instr} {f : Fields} {s : State} (extra : State → State)
    (hl : k.isLogic = isLogic i) (hi : k.isInput = isInput i) (hf : FieldsOk i f) (ha : AddressOk f s) :
    plainWord k f s extra = .next (finish s .none (extra (datapath k f s))) :=
  withDatapath_of_allowed _ hl hi hf ha

theorem exec_iX (f : Fields) (s : State) :
    exec (.iX f) s = plainWord .plain f s fun u => { u with i := xNum f s } :=
  rfl

/-- Settles O35. I has no part in what the fields do, so what they do is what every word with fields does. -/
theorem loadCounterCompletes : Obligations.LoadCounterCompletes := by
  intro f s hok ha
  have h := (exec_iX f s).trans (plainWord_of_allowed (i := .iX f) _ rfl rfl hok ha)
  refine ⟨_, h, ⟨exec_datapath h rfl, finish_none_falls s _, fun hpass => ?_⟩, ?_⟩
  · exact regPipeline _ f s _ h rfl hpass (by simp) (by simp) (by simp)
  · rw [← xNum_eq_ofNat]
    rfl

/-! ### REGBANK, branch by branch -/

section

variable {f : Fields} {s : State}

theorem execRegbank_store (hstore : f.store = true) :
    execRegbank f s = .refused .storeWithRegbank := if_pos hstore

theorem execRegbank_absent (hstore : f.store = false) (hbank : s.cfg.numBanks ≤ low f s / 16) :
    execRegbank f s = .refused .bankNotImplemented := by
  simp [execRegbank, hstore, xNum_toNat, hbank]

theorem execRegbank_implemented (hstore : f.store = false) (hbank : low f s / 16 < s.cfg.numBanks) :
    execRegbank f s = plainWord .plain f s fun u => regUnknown { u with bank := xNum f s } := by
  simp [execRegbank, hstore, xNum_toNat, Nat.not_le.mpr hbank]

end

/-- Settles O36. The fields and their addresses count only behind the checks for STORE and the bank. -/
theorem regbankCompletes : Obligations.RegbankCompletes := by
  refine fun f s => ⟨fun hstore hbank hok ha => ?_, execRegbank_store, execRegbank_absent⟩
  have h : exec (.regbank f) s =
      .next (finish s .none (regUnknown { datapath .plain f s with bank := xNum f s })) :=
    (execRegbank_implemented hstore hbank).trans
      (plainWord_of_allowed (i := .regbank f) _ rfl rfl hok ha)
  refine ⟨_, h, exec_datapath h rfl, finish_none_falls s _, ?_⟩
  rw [← xNum_eq_ofNat]
  rfl

/-- Settles O52. Neither opcode looks at its fields or at the state. -/
theorem undefinedOpcodesRefused : Obligations.UndefinedOpcodesRefused := fun _ _ => ⟨rfl, rfl⟩

end Sys2Proof.Machine
end

section
/-!
Jumps, branches and calls (42_control_transfer.md R151, R154 to R165, R170, R175, R176): where control stands
after each kind of transfer, what every address word does to the rest of the state, and that it completes.
-/

namespace Sys2Proof.Machine

open Spec

/-! ### Control after each kind of transfer (42_control_transfer.md R151) -/

section

variable (s u : State) (g : Addr)

theorem toNat_pc_add_one : (s.pc + 1).toNat = nextAddr s := by
  simp [nextAddr]

theorem finish_delayed1_at : At (finish s (.delayed1 g) u) (nextAddr s) (some (.one g)) false false :=
  ⟨toNat_pc_add_one s, rfl, rfl, rfl, rfl⟩

theorem finish_delayed2_at : At (finish s (.delayed2 g) u) (nextAddr s) (some (.two g)) false false :=
  ⟨toNat_pc_add_one s, rfl, rfl, rfl, rfl⟩

/-- A transfer at once to address 1 is on the way through it (42_control_transfer.md R176). -/
theorem finish_now_at : At (finish s (.now g) u) g.toNat none (decide (g = 1)) false :=
  ⟨rfl, rfl, rfl, rfl, rfl⟩

/-- A transfer at once to another address than 1 sets no IND. -/
theorem finish_now_at_of_ne (hg : g ≠ 1) : At (finish s (.now g) u) g.toNat none false false :=
  ⟨rfl, rfl, decide_eq_false hg, rfl, rfl⟩

theorem finish_again_at : At (finish s .again u) s.pc.toNat none false false :=
  ⟨rfl, rfl, rfl, rfl, rfl⟩

theorem finish_takenIf (taken : Bool) :
    if taken then At (finish s (takenIf taken g) u) (nextAddr s) (some (.one g)) false false
    else Falls s (finish s (takenIf taken g) u) := by
  cases taken with
  | true => exact finish_delayed1_at s u g
  | false => exact finish_none_falls s u

end

/-! ### Address words -/

section

variable {i : Instr} {lsh : Bool} {target : Addr} {s t : State}

/-- An address word that completes does what its one field says, whatever its opcode. -/
theorem exec_addressWord (h : exec i s = .next t) (hl : lshOf i = some lsh) : AddressWord lsh s t := by
  obtain ⟨hf, -⟩ := effectOf_of_lsh s hl
  obtain ⟨ha, hcf, hzf, hmem⟩ := unchanged_of_no_fields h hf
  obtain ⟨-, hb, -⟩ := registerB i s t h
  exact {
    a := ha
    b := hb lsh hl
    c := (registerC i s t h).2 hf
    d := (registerD.2 i s t h).2 hf
    cf := hcf
    zf := hzf
    kept := fun x => by rw [hmem] }

theorem branchWord_ok (tr : Transfer) (hp : s.pend = none) :
    branchWord lsh s tr = .next (finish s tr (addressDatapath lsh s)) :=
  outsideSlot_of_none hp

theorem callTaken_ok (ra : Addr) (tr : Transfer) (ht : target ≠ 1)
    (hroom : s.stk.length < s.cfg.stackDepth) :
    callTaken lsh s ra target tr = .next (finish s tr { addressDatapath lsh s with stk := ra :: s.stk }) :=
  (if_neg ht).trans (pushThen_ok hroom)

/-- The conditional branches, each with whether it is taken (42_control_transfer.md R156 to R161). -/
theorem exec_conditionalBranch {taken : Bool}
    (hi : (i, taken) ∈ [(Instr.bcf0 lsh target, !s.cf), (.bcf1 lsh target, s.cf),
      (.bzf0 lsh target, !s.zf), (.bzf1 lsh target, s.zf),
      (.bc0 lsh target, decide (s.c.toNat % 2 = 0)), (.bc1 lsh target, decide (s.c.toNat % 2 = 1))]) :
    lshOf i = some lsh ∧ exec i s = branchWord lsh s (takenIf taken target) := by
  have hc1 : s.c.getLsbD 0 = decide (s.c.toNat % 2 = 1) := getLsbD_zero_eq s.c
  have hc0 : (!s.c.getLsbD 0) = decide (s.c.toNat % 2 = 0) := by
    rw [hc1]
    rcases Nat.mod_two_eq_zero_or_one s.c.toNat with h | h <;> rw [h] <;> rfl
  simp only [← hc0, ← hc1, List.mem_cons, Prod.mk.injEq, List.not_mem_nil, or_false] at hi
  obtain ⟨rfl, rfl⟩ | ⟨rfl, rfl⟩ | ⟨rfl, rfl⟩ | ⟨rfl, rfl⟩ | ⟨rfl, rfl⟩ | ⟨rfl, rfl⟩ := hi <;>
    exact ⟨rfl, rfl⟩

/-- A conditional call outside a slot is CALL's or nothing (42_control_transfer.md R164, R165). -/
theorem exec_conditionalCall {taken : Bool} (hp : s.pend = none)
    (hi : (i, taken) ∈ [(Instr.call0 lsh target, !s.zf), (.call1 lsh target, s.zf)]) :
    lshOf i = some lsh ∧
      exec i s = if taken then callTaken lsh s (callReturn s) target (.delayed1 target)
        else callNotTaken lsh s := by
  simp only [List.mem_cons, Prod.mk.injEq, List.not_mem_nil, or_false] at hi
  obtain ⟨rfl, rfl⟩ | ⟨rfl, rfl⟩ := hi
  · refine ⟨rfl, (outsideSlot_of_none hp).trans ?_⟩
    cases s.zf <;> rfl
  · exact ⟨rfl, outsideSlot_of_none hp⟩

/-- The return address of CALL over whole numbers (42_control_transfer.md R170). -/
theorem callReturn_eq (s : State) : callReturn s = BitVec.ofNat 16 (s.pc.toNat + 2) := by
  simp [callReturn, BitVec.ofNat_add]

/-- The return address of JCALL over whole numbers (42_control_transfer.md R170). -/
theorem jcallReturn_eq (s : State) : jcallReturn s = BitVec.ofNat 16 (s.pc.toNat + s.cfg.jcallRet) := by
  simp [jcallReturn, BitVec.ofNat_add]

end

/-! ### The statements about jumps, branches and calls -/

/-- Settles O37. Outside a slot both are the same word with another transfer. -/
theorem jumpsComplete : Obligations.JumpsComplete := by
  intro lsh target s hp
  have hb : exec (.b lsh target) s = .next (finish s (.delayed1 target) (addressDatapath lsh s)) :=
    branchWord_ok _ hp
  have hjb : exec (.jb lsh target) s = .next (finish s (.now target) (addressDatapath lsh s)) :=
    branchWord_ok _ hp
  exact ⟨⟨_, hb, exec_addressWord hb rfl, rfl, finish_delayed1_at s _ target⟩,
    ⟨_, hjb, exec_addressWord hjb rfl, rfl, finish_now_at s _ target⟩⟩

/-- Settles O38. The six differ in their condition only, which `takenIf` turns into the transfer. -/
theorem conditionalBranchesComplete : Obligations.ConditionalBranchesComplete := by
  intro lsh target s i taken hi hp
  obtain ⟨hl, hexec⟩ := exec_conditionalBranch hi
  have h := hexec.trans (branchWord_ok _ hp)
  exact ⟨_, h, exec_addressWord h hl, rfl, finish_takenIf s _ target taken⟩

/-- Settles O39. A call is an address word that pushes; JCALL's target is not 1, so it sets no IND. -/
theorem callsComplete : Obligations.CallsComplete := by
  intro lsh target s hp ht hroom
  have hcall := (outsideSlot_of_none hp).trans
    (callTaken_ok (lsh := lsh) (callReturn s) (.delayed1 target) ht hroom)
  have hjcall := (outsideSlot_of_none hp).trans
    (callTaken_ok (lsh := lsh) (jcallReturn s) (.now target) ht hroom)
  refine ⟨⟨_, hcall, exec_addressWord (i := .call lsh target) hcall rfl, ?_,
      finish_delayed1_at s _ target⟩,
    ⟨_, hjcall, exec_addressWord (i := .jcall lsh target) hjcall rfl, ?_,
      finish_now_at_of_ne s _ target ht⟩⟩
  · rw [← callReturn_eq]
    rfl
  · rw [← jcallReturn_eq]
    rfl

/-- Settles O40. On its condition the word is CALL's, and otherwise a branch that is not taken. -/
theorem conditionalCallsComplete : Obligations.ConditionalCallsComplete := by
  intro lsh target s i taken hi hp
  obtain ⟨hl, hexec⟩ := exec_conditionalCall hp hi
  refine ⟨?_, ?_⟩
  · rintro rfl ht hroom
    have h := hexec.trans (callTaken_ok (callReturn s) (.delayed1 target) ht hroom)
    refine ⟨_, h, exec_addressWord h hl, ?_, finish_delayed1_at s _ target⟩
    rw [← callReturn_eq]
    rfl
  · rintro rfl
    have h : exec i s = .next (finish s .none (addressDatapath lsh s)) := hexec
    exact ⟨_, h, exec_addressWord h hl, rfl, finish_none_falls s _⟩

end Sys2Proof.Machine
end

section
/-!
Returns, LOOP and WAIT (42_control_transfer.md R166 to R169, R171, R173; 43_compressed.md R195): words with
fields that decide a transfer after their datapath step.
-/

namespace Sys2Proof.Machine

open Spec

/-! ### REG and the fall-through -/

section

variable {i : Instr} {f : Fields} {s t u : State}

/-- The model's REG after a datapath step is what 40_datapath_fields.md R111 says, outside R112's cases. -/
theorem regLoaded_of_reg_eq (h : t.reg = nextReg f s) : RegLoaded f s t := by
  intro hother v hv
  have hkept : ¬ (f.store = true ∧ writeAddress f s = readAddress f s) :=
    fun ⟨hstore, haddr⟩ => hother ⟨hstore, haddr.symm⟩
  rw [h, nextReg, if_neg hkept]
  exact readByte_known hv

/-- A word with fields that ends without a transfer and with the byte it read in REG is an ordinary one. -/
theorem ordinary_of_finish_none (h : exec i s = .next (finish s .none u)) (hf : fieldsOf i = some f)
    (hu : u.reg = nextReg f s) : Ordinary i f s (finish s .none u) where
  datapath := exec_datapath h hf
  goes := finish_none_falls s u
  loaded hpass := regLoaded_of_reg_eq ((finish_none_reg u hpass).trans hu)

end

/-! ### The words outside a slot -/

section

variable {i : Instr} {f : Fields} {s : State}

/-- The model's CIP after a pop is the second reading's (43_compressed.md R195). -/
theorem cipAfterPop_eq_cipLeft (s : State) (n : Nat) : cipAfterPop s.cip n = cipLeft s n := by
  unfold cipAfterPop cipLeft
  cases s.cip with
  | none => rfl
  | some d =>
    by_cases hd : n < d
    · simp [Option.filter_some, hd, Nat.not_le.mpr hd]
    · simp [Option.filter_some, hd, Nat.not_lt.mp hd]

theorem returnTaken_ok {v : Addr} {stk : List Addr} (u : State) (mk : Addr → Transfer)
    (hs : s.stk = v :: stk) (hv : v ≠ 1) :
    returnTaken s u mk = .next (finish s (mk v) { u with stk := stk, cip := cipLeft s stk.length }) := by
  rw [← cipAfterPop_eq_cipLeft]
  exact (popThen_ok hs).trans (if_neg hv)

/-- A conditional return outside a slot is RETURN or falls through (42_control_transfer.md R168, R169). -/
theorem exec_conditionalReturn {taken : Bool} (hi : (i, taken) ∈ [(Instr.ret0 f, !s.zf), (.ret1 f, s.zf)])
    (hp : s.pend = none) (hok : FieldsOk i f) (ha : AddressOk f s) :
    fieldsOf i = some f ∧
      exec i s = if taken then returnTaken s (datapath .plain f s) .delayed1
        else .next (finish s .none (datapath .plain f s)) := by
  simp only [List.mem_cons, Prod.mk.injEq, List.not_mem_nil, or_false] at hi
  obtain ⟨rfl, rfl⟩ | ⟨rfl, rfl⟩ := hi
  · refine ⟨rfl, (outsideSlot_of_none hp).trans ((withDatapath_of_allowed _ rfl rfl hok ha).trans ?_)⟩
    cases s.zf <;> rfl
  · exact ⟨rfl, (outsideSlot_of_none hp).trans (withDatapath_of_allowed _ rfl rfl hok ha)⟩

/-- LOOP's target over whole numbers (42_control_transfer.md R171). -/
theorem loopTarget_eq {target : Addr}
    (h : target.toNat = (s.pc.toNat + 2 + 65536 - f.low.toNat) % 65536) : loopTarget f s = target := by
  have hlow := f.low.isLt
  apply BitVec.eq_of_toNat_eq
  simp only [loopTarget, BitVec.ofNat_eq_ofNat, BitVec.toNat_sub, BitVec.toNat_add, BitVec.toNat_ofNat,
    BitVec.toNat_setWidth, h]
  omega

/-- Outside a slot an allowed LOOP does its datapath step, and goes on by I (42_control_transfer.md R171). -/
theorem exec_loop (hp : s.pend = none) (hcopr : f.copr = false) (hok : FieldsOk (.loop f) f)
    (ha : AddressOk f s) :
    exec (.loop f) s =
      if s.i = 0 then .next (finish s .none (datapath .plain f s))
      else if loopTarget f s = 1 then .refused .reachedAddressOne
      else .next (finish s (.delayed2 (loopTarget f s)) { datapath .plain f s with i := s.i - 1 }) :=
  (outsideSlot_of_none hp).trans
    ((if_neg (Bool.eq_false_iff.mp hcopr)).trans (withDatapath_of_allowed _ rfl rfl hok ha))

end

/-! ### The statements about returns, LOOP and WAIT -/

/-- Settles O41. Both do their datapath step and pop; JRETURN's target is not 1, so it sets no IND. -/
theorem returnsComplete : Obligations.ReturnsComplete := by
  intro f s v stk hp hs hv ha
  refine ⟨fun hok => ?_, fun hok => ?_⟩
  · have h : exec (.ret f) s = _ := (outsideSlot_of_none hp).trans
      ((withDatapath_of_allowed _ rfl rfl hok ha).trans (returnTaken_ok _ .delayed1 hs hv))
    exact ⟨_, h, exec_datapath h rfl, regLoaded_of_reg_eq rfl, rfl, finish_delayed1_at s _ v⟩
  · have h : exec (.jret f) s = _ := (outsideSlot_of_none hp).trans
      ((withDatapath_of_allowed _ rfl rfl hok ha).trans (returnTaken_ok _ .now hs hv))
    exact ⟨_, h, exec_datapath h rfl, rfl, finish_now_at_of_ne s _ v hv⟩

/-- Settles O42. On its condition the word is RETURN's, and otherwise an ordinary one. -/
theorem conditionalReturnsComplete : Obligations.ConditionalReturnsComplete := by
  intro f s i taken hi hp hok ha
  obtain ⟨hf, hexec⟩ := exec_conditionalReturn hi hp hok ha
  refine ⟨?_, ?_⟩
  · rintro rfl v stk hs hv
    have h := hexec.trans (returnTaken_ok _ .delayed1 hs hv)
    exact ⟨_, h, exec_datapath h hf, regLoaded_of_reg_eq rfl, rfl, finish_delayed1_at s _ v⟩
  · rintro rfl
    have h : exec i s = .next (finish s .none (datapath .plain f s)) := hexec
    exact ⟨_, h, ordinary_of_finish_none h hf rfl, rfl⟩

/-- Settles O43, by the three cases of `exec_loop`. -/
theorem loopCompletes : Obligations.LoopCompletes := by
  intro f s target htarget hp hcopr hok ha
  have hexec := exec_loop hp hcopr hok ha
  rw [loopTarget_eq htarget] at hexec
  refine ⟨fun hi ht => ?_, fun hi ht => ?_, fun hi => ?_⟩
  · have h := hexec.trans ((if_neg hi).trans (if_neg ht))
    exact ⟨_, h, exec_datapath h rfl, regLoaded_of_reg_eq rfl, rfl, finish_delayed2_at s _ target⟩
  · exact hexec.trans ((if_neg hi).trans (if_pos ht))
  · have h := hexec.trans (if_pos hi)
    exact ⟨_, h, ordinary_of_finish_none h rfl rfl, rfl⟩

/-- Settles O44, by the two cases of `exec_wait`. -/
theorem waitCompletes : Obligations.WaitCompletes := by
  intro f s hp hok ha
  have hexec := exec_wait hp hok ha
  refine ⟨fun hi => ?_, fun hi => ?_⟩
  · have h := hexec.trans (if_neg hi)
    exact ⟨_, h, exec_datapath h rfl, regLoaded_of_reg_eq rfl, rfl, finish_again_at s _⟩
  · have h := hexec.trans (if_pos hi)
    exact ⟨_, h, ordinary_of_finish_none h rfl rfl, rfl⟩

end Sys2Proof.Machine
end

section
/-!
Delay slots and the indirect jump (42_control_transfer.md R153, R176; 43_compressed.md R192, R193): a word that
may not stand in a slot is refused there, every other word ends without a transfer; and the way through
address 1 is the bare NOP, which goes on to the address in A and B.
-/

namespace Sys2Proof.Machine

open Spec

/-! ### Delay slots -/

section

variable {i : Instr} {f : Fields} {s t : State}

theorem exec_refused_of_notInSlot {p : Delayed} (hp : s.pend = some p) (hi : notInSlot i = true) :
    ∃ r, exec i s = .refused r := by
  cases i with
  | returni f => exact ite_refused ⟨_, rfl⟩ ⟨_, outsideSlot_of_some hp⟩
  | compressedUpper k p | compressedLower k p => exact ⟨_, if_pos (.inl (by simp [hp]))⟩
  | b | jb | bcf0 | bcf1 | bzf0 | bzf1 | bc0 | bc1 | call | jcall | call0 | call1 | ret | jret | ret0 | ret1
  | loop | wait => exact ⟨_, outsideSlot_of_some hp⟩
  | _ => cases hi

/-- A plain word decides no transfer. -/
theorem plainWord_falls {k : AluOp} {extra : State → State} (h : plainWord k f s extra = .next t) :
    Falls s t := by
  obtain ⟨-, -, rfl⟩ := plainWord_next h
  exact finish_none_falls s _

theorem next_finish_none_falls {u : State} (h : Host.Outcome.next (finish s .none u) = (.next t : Result)) :
    Falls s t :=
  Host.Outcome.next.inj h ▸ finish_none_falls s u

/-- ENABLE and DISABLE, behind their check. -/
theorem ite_withDatapath_falls {p : Prop} [Decidable p] {r : Refusal} {k : AluOp} {extra : State → State}
    (h : (if p then .refused r else withDatapath k f s fun u => .next (finish s .none (extra u))) =
      (.next t : Result)) : Falls s t := by
  split at h
  · cases h
  · exact plainWord_falls h

/-- Every word that may stand in a slot decides no transfer of its own. -/
theorem exec_falls (h : exec i s = .next t) (hi : notInSlot i = false) : Falls s t := by
  cases i with
  | nop | dReg | add | and | xor | or | mov => exact plainWord_falls h
  | iX f => exact plainWord_falls (extra := fun u => { u with i := xNum f s }) h
  | iostrobe f => exact plainWord_falls (extra := emit (.ioStrobe (xPortId s) (xOutPort s))) h
  | output f => exact plainWord_falls (extra := emit (.writeStrobe (xPortId s) (xOutPort s))) h
  | regbank f =>
    change execRegbank f s = _ at h
    unfold execRegbank at h
    split_ifs at h
    exact plainWord_falls h
  | enable f => exact ite_withDatapath_falls (extra := fun u => { u with ie := true }) h
  | disable f => exact ite_withDatapath_falls (extra := fun u => { u with ie := false }) h
  | popsp f =>
    change execPopsp f s = _ at h
    obtain ⟨-, -, h⟩ := withDatapath_next h
    obtain ⟨v, stk, -, h⟩ := popThen_next h
    exact next_finish_none_falls h
  | outputk f =>
    change execOutputk f s = _ at h
    unfold execOutputk at h
    split at h
    · cases h
    · obtain ⟨-, -, h⟩ := withDatapath_next h
      exact next_finish_none_falls h
  | input f | inputoutput f =>
    obtain ⟨v, -, -, -, rfl⟩ := inputWord_next h
    exact finish_none_falls s _
  | undefined15 | undefined31 => nomatch h
  | _ => cases hi

end

/-- Settles O53. What has a next state is not refused, so it may stand in the slot, and then
the pending transfer goes on. -/
theorem delaySlots : Obligations.DelaySlots := by
  intro i s p hp
  refine ⟨exec_refused_of_notInSlot hp, fun t h => ?_⟩
  have hi : notInSlot i = false := by
    by_contra hno
    obtain ⟨r, hr⟩ := exec_refused_of_notInSlot hp (Bool.not_eq_false _ ▸ hno)
    exact nomatch hr.symm.trans h
  exact ⟨hi, exec_falls h hi⟩

/-! ### The way through address 1 -/

/-- The all-zero word is the bare NOP, under every VARIANT_BIT and for either half (30_encoding.md R83). -/
theorem decode_zero (vb : VariantBit) (hl : Bool) : decode vb hl 0 = .ok (.nop Fields.bare) := by
  cases hl <;> rfl

/-- The bare NOP under an indirect jump writes no register and goes on to the address in A and B
(42_control_transfer.md R176). -/
theorem exec_bareNop_indirect {s : State} (hp : s.pend = none) (hind : s.ind = true)
    (ha : AddressOk Fields.bare s) :
    ∃ t, exec (.nop Fields.bare) s = .next t ∧
      At t (256 * s.a.toNat + s.b.toNat) none false false ∧
      t.a = s.a ∧ t.b = s.b ∧ t.c = s.c ∧ t.d = s.d := by
  obtain ⟨t, h, ⟨hdata, hgoes, -⟩, -⟩ :=
    aluWordsComplete (.nop Fields.bare) Fields.bare s (by simp) (by decide) ha
  refine ⟨t, h, ?_, BitVec.eq_of_toNat_eq hdata.a, BitVec.eq_of_toNat_eq hdata.b,
    BitVec.eq_of_toNat_eq hdata.c, BitVec.eq_of_toNat_eq hdata.d⟩
  simpa [Falls, hp, hind] using hgoes

/-- Settles O58. The JB leaves A alone and IND set at address 1; the step there is that of the bare NOP. -/
theorem indirectJump : Obligations.IndirectJump := by
  intro lsh s t h hsize hword hno ha
  obtain ⟨-, rfl⟩ := branchWord_next h
  obtain ⟨u, hu, hat, hregs⟩ := exec_bareNop_indirect rfl rfl ha
  obtain ⟨-, hstep⟩ := stepRunsDecodedInstruction _ 0 _ hno hsize hword (fun _ => rfl) nofun
    (decode_zero _ _)
  rw [hu] at hstep
  refine ⟨nextLines u, hstep, ?_, ?_, ?_, ?_⟩
  · rw [nextLines_pc, hat.pc]
    rfl
  · rw [nextLines_ind, hat.ind]
  · rw [nextLines_pend, hat.pend]
  · simpa using hregs

end Sys2Proof.Machine
end

section
/-!
Compressed instructions (43_compressed.md R191 to R194, R197, R198): both halves of a compressed word are one
start with another return address and half bit, behind three checks and the room on the stack; and POPSP.
-/

namespace Sys2Proof.Machine

open Spec

/-! ### POPSP -/

/-- On a stack that holds an entry an allowed POPSP does its datapath step and drops that entry. -/
theorem exec_popsp {f : Fields} {s : State} {v : Addr} {stk : List Addr} (hs : s.stk = v :: stk)
    (hok : FieldsOk (.popsp f) f) (ha : AddressOk f s) :
    exec (.popsp f) s =
      .next (finish s .none { datapath .plain f s with stk := stk, hl := false, cip := none }) := by
  change execPopsp f s = _
  rw [execPopsp, withDatapath_of_allowed _ rfl rfl hok ha, popThen_ok hs]

/-- Settles O47. What POPSP writes beside its fields' effects is no part of what they do. -/
theorem popspCompletes : Obligations.PopspCompletes := by
  intro f s v stk hs hok ha
  have h := exec_popsp hs hok ha
  exact ⟨_, h, ordinary_of_finish_none h rfl rfl, rfl⟩

/-! ### The start of a compressed instruction, check by check (43_compressed.md R192, R198) -/

section

variable {k : BitVec 7} {p : Byte} {ra : Addr} {hl : Bool} {s : State}

/-- The product does not wrap: the last of the 128 entries is at 1020 (43_compressed.md R194). -/
theorem compressedEntry_toNat (k : BitVec 7) : (compressedEntry k).toNat = 8 * k.toNat + 4 := by
  simp only [compressedEntry, BitVec.ofNat_eq_ofNat, BitVec.toNat_add, BitVec.toNat_mul,
    BitVec.toNat_setWidth, BitVec.toNat_ofNat]
  omega

theorem compressedEntry_ne_one (k : BitVec 7) : compressedEntry k ≠ 1 := by
  intro h
  have hk := compressedEntry_toNat k
  rw [h] at hk
  simp at hk

theorem compressedStart_inSlot (h : s.pend ≠ none ∨ s.ind = true) :
    compressedStart k p ra hl s = .refused .compressedInSlot :=
  if_pos h

section

variable (hp : s.pend = none) (hind : s.ind = false)

include hp hind

/-- Outside slots the handler is the next check. -/
theorem compressedStart_inHandler (hins : s.ins = true) :
    compressedStart k p ra hl s = .refused .compressedInHandler :=
  (if_neg (by simp [hp, hind])).trans (if_pos hins)

/-- Outside slots and handlers the compressed instruction in progress is the next check. -/
theorem compressedStart_nested (hins : s.ins = false) (hcip : s.cip ≠ none) :
    compressedStart k p ra hl s = .refused .compressedNested :=
  (if_neg (by simp [hp, hind])).trans ((if_neg (by simp [hins])).trans (if_pos hcip))

variable (hins : s.ins = false) (hcip : s.cip = none)

include hins hcip

/-- Behind the three checks a compressed instruction is a call. -/
theorem compressedStart_eq_pushThen :
    compressedStart k p ra hl s = pushThen s ra fun stk =>
      .next (finish s (.now (compressedEntry k))
        { s with co := p, stk := stk, cip := some stk.length, hl := hl }) :=
  (if_neg (by simp [hp, hind])).trans ((if_neg (by simp [hins])).trans (if_neg (by simp [hcip])))

theorem compressedStart_full (hfull : s.cfg.stackDepth ≤ s.stk.length) :
    compressedStart k p ra hl s = .refused .stackOverflow :=
  (compressedStart_eq_pushThen hp hind hins hcip).trans (pushThen_full hfull)

/-- A start touches neither the operation registers nor the flags nor data memory; its target is not 1, so it
sets no IND. -/
theorem compressedStart_completes (hroom : s.stk.length < s.cfg.stackDepth) :
    ∃ t, compressedStart k p ra hl s = .next t ∧ Untouched s t ∧
      At t (8 * k.toNat + 4) none false false ∧
      special t = { special s with co := p, stk := ra :: s.stk, hl := hl,
                                   cip := some (s.stk.length + 1) } := by
  refine ⟨_, (compressedStart_eq_pushThen hp hind hins hcip).trans (pushThen_ok hroom),
    ⟨rfl, rfl, rfl, rfl, rfl, rfl, fun _ => rfl⟩, ?_, rfl⟩
  rw [← compressedEntry_toNat]
  exact finish_now_at_of_ne s _ _ (compressedEntry_ne_one k)

end

/-- Both halves are the same start (43_compressed.md R192, R193). -/
theorem exec_compressedHalf {i : Instr} (s : State)
    (hi : i = .compressedUpper k p ∨ i = .compressedLower k p) :
    ∃ ra hl, exec i s = compressedStart k p ra hl s := by
  obtain rfl | rfl := hi <;> exact ⟨_, _, rfl⟩

/-- The return address of the lower half over whole numbers (43_compressed.md R193). -/
theorem pc_add_one_eq_ofNat (s : State) : s.pc + 1 = BitVec.ofNat 16 (s.pc.toNat + 1) := by
  simp [BitVec.ofNat_add]

end

/-- Settles O48. The halves differ in the return address and HL only, and neither has a part in a check. -/
theorem compressedHalvesComplete : Obligations.CompressedHalvesComplete := by
  intro k p s
  refine ⟨fun hp hind hins hcip hroom => ⟨?_, ?_⟩, fun i hi => ?_⟩
  · exact compressedStart_completes hp hind hins hcip hroom
  · rw [← pc_add_one_eq_ofNat]
    exact compressedStart_completes hp hind hins hcip hroom
  · obtain ⟨ra, hl, h⟩ := exec_compressedHalf s hi
    rw [h]
    exact ⟨compressedStart_inSlot, compressedStart_inHandler, compressedStart_nested,
      compressedStart_full⟩

end Sys2Proof.Machine
end

section
/-!
The port interface (44_io_opcodes.md R205 to R215): what a step appends to the trace and takes of the
environment's answers, and the five words that emit an event. IOSTROBE, OUTPUT and OUTPUTK are plain words whose
own effect is one event; INPUT and INPUTOUTPUT share `inputWord` and differ in the event only.
-/

namespace Sys2Proof.Machine

open Spec

/-! ### Events and answers -/

section

variable {i : Instr} {s t : State}

theorem Completes.trace_eq (c : Completes i s t) : t.trace = traceAfter i s :=
  c.effect State.trace (fun _ _ => rfl) fun _ => rfl

theorem Completes.answers_eq (c : Completes i s t) : t.portIn = answersAfter i s :=
  c.effect State.portIn (fun _ _ => rfl) fun _ => rfl

/-- An instruction without an event takes no answer: the inputs, which alone take one, always emit. -/
theorem answersAfter_of_no_event (h : eventOf i s = none) : answersAfter i s = s.portIn := by
  cases i with
  | input f | inputoutput f => cases h
  | _ => rfl

/-- An instruction takes one answer or none (44_io_opcodes.md R215). -/
theorem answersAfter_cases (i : Instr) (s : State) :
    answersAfter i s = s.portIn ∨ answersAfter i s = s.portIn.tail := by
  cases i with
  | input f | inputoutput f => exact (ite_eq_or_eq ..).symm
  | _ => exact .inl rfl

/-- An instruction that completes emits at most one event, and takes at most one answer, with an event. -/
theorem Completes.emits (c : Completes i s t) :
    (t.trace = s.trace ∧ t.portIn = s.portIn) ∨
      ∃ e, t.trace = s.trace ++ [e] ∧ (t.portIn = s.portIn ∨ t.portIn = s.portIn.tail) := by
  rw [c.trace_eq, c.answers_eq, traceAfter]
  cases he : eventOf i s with
  | none => exact .inl ⟨rfl, answersAfter_of_no_event he⟩
  | some e => exact .inr ⟨e, rfl, answersAfter_cases i s⟩

end

/-- Settles O12. Interrupt entry and the lines moving on leave the trace and the answers alone. -/
theorem stepEmitsAtMostOneEvent : Obligations.StepEmitsAtMostOneEvent := by
  intro s t h
  obtain ⟨-, rfl⟩ | ⟨-, i, u, -, hexec, rfl⟩ := step_next h
  · exact .inl ⟨nextLines_trace _, nextLines_portIn _⟩
  · rw [nextLines_trace, nextLines_portIn]
    exact (exec_next hexec).emits

/-! ### The words that write to a port -/

section

variable {i : Instr} {f : Fields} {s : State}

/-- A plain word whose own effect is an event completes and emits it. -/
theorem plainWord_emit_completes {e : IoEvent} (hexec : exec i s = plainWord .plain f s (emit e))
    (hf : fieldsOf i = some f) (hl : isLogic i = false) (hin : isInput i = false) (hok : FieldsOk i f)
    (ha : AddressOk f s) :
    ∃ t, exec i s = .next t ∧ Ordinary i f s t ∧
      special t = { special s with trace := s.trace ++ [e] } := by
  have h := hexec.trans (plainWord_of_allowed (emit e) hl.symm hin.symm hok ha)
  exact ⟨_, h, ordinary_of_finish_none h hf rfl, rfl⟩

/-- With a byte to put on the port, OUTPUTK is a plain word that emits it. -/
theorem exec_outputk_of_data {v : Byte} (hv : outputkData f s = some v) :
    exec (.outputk f) s = plainWord .plain f s (emit (.writeStrobeK s.b v)) := by
  change execOutputk f s = _
  rw [execOutputk, hv]
  rfl

theorem exec_outputk_of_no_data (hv : outputkData f s = none) :
    exec (.outputk f) s = .refused .outputkImmediate := by
  change execOutputk f s = _
  rw [execOutputk, hv]

/-- The immediate is below 16 where X is 0 (30_encoding.md R62). -/
theorem xNum_eq_zero_iff (f : Fields) (s : State) : xNum f s = 0 ↔ low f s < 16 := by
  rw [← BitVec.toNat_inj, xNum_toNat, BitVec.ofNat_eq_ofNat, BitVec.toNat_ofNat, Nat.zero_mod]
  omega

theorem outputkData_small (h : low f s < 16) : outputkData f s = some (lowByte f s) :=
  if_pos ((xNum_eq_zero_iff f s).mpr h)

section

variable (h : 16 ≤ low f s)

include h

theorem xNum_ne_zero : xNum f s ≠ 0 :=
  mt (xNum_eq_zero_iff f s).mp (Nat.not_lt.mpr h)

theorem outputkData_refuse (himm : s.cfg.outputkImm = .refuse) : outputkData f s = none := by
  exact (if_neg (xNum_ne_zero h)).trans (by rw [himm])

theorem outputkData_n8 (himm : s.cfg.outputkImm = .n8) : outputkData f s = some (lowByte f s) := by
  exact (if_neg (xNum_ne_zero h)).trans (by rw [himm])

theorem outputkData_z4 (himm : s.cfg.outputkImm = .z4) :
    outputkData f s = some ((zNum f s).setWidth 8) := by
  exact (if_neg (xNum_ne_zero h)).trans (by rw [himm])

end

/-- The byte OUTPUTK puts on the port where it is not refused (44_io_opcodes.md R210). -/
theorem exists_outputkData (h : low f s < 16 ∨ s.cfg.outputkImm ≠ .refuse) :
    ∃ v, outputkData f s = some v ∧
      (low f s < 16 ∨ s.cfg.outputkImm = .n8 → v.toNat = low f s) ∧
      (s.cfg.outputkImm = .z4 → v.toNat = low f s % 16) := by
  have hbyte := lowByte_toNat f s
  rcases Nat.lt_or_ge (low f s) 16 with hlt | hge
  · exact ⟨_, outputkData_small hlt, fun _ => hbyte, fun _ => hbyte.trans (Nat.mod_eq_of_lt hlt).symm⟩
  · cases himm : s.cfg.outputkImm with
    | refuse => exact absurd himm (h.resolve_left (Nat.not_lt.mpr hge))
    | n8 => exact ⟨_, outputkData_n8 hge himm, fun _ => hbyte, nofun⟩
    | z4 =>
      refine ⟨_, outputkData_z4 hge himm, fun hsmall => ?_, fun _ => ?_⟩
      · exact absurd (hsmall.resolve_right nofun) (Nat.not_lt.mpr hge)
      · rw [BitVec.toNat_setWidth_of_le (by decide), zNum_toNat]

end

/-- Settles O49. Both are plain words that emit. -/
theorem strobeAndOutputComplete : Obligations.StrobeAndOutputComplete := fun _ _ ha =>
  ⟨fun hok => plainWord_emit_completes rfl rfl rfl rfl hok ha,
    fun hok => plainWord_emit_completes rfl rfl rfl rfl hok ha⟩

/-- Settles O50. Whether there is a byte to emit, and which, is `exists_outputkData` and
`outputkData_refuse`; with one, OUTPUTK is a plain word that emits. -/
theorem outputkCompletes : Obligations.OutputkCompletes := by
  intro f s hok ha
  refine ⟨fun h => ?_, fun hge himm => exec_outputk_of_no_data (outputkData_refuse hge himm)⟩
  obtain ⟨v, hv, hwhole, hlow⟩ := exists_outputkData h
  obtain ⟨t, ht, hord, hspecial⟩ :=
    plainWord_emit_completes (exec_outputk_of_data hv) rfl rfl rfl hok ha
  exact ⟨t, v, ht, hord, hspecial, hwhole, hlow⟩

/-! ### The selectors of an input (44_io_opcodes.md R212) -/

section

variable {s : State} {z : Nibble}

theorem inByte_ok (hz : z.toNat ≤ 4) (hs : z.toNat = 1 ∨ z.toNat = 2 → s.stk ≠ []) :
    ∃ v, inByte s z = .ok v := by
  unfold inByte
  split
  case h_1 | h_4 | h_5 => exact ⟨_, rfl⟩
  case h_2 hz1 =>
    obtain ⟨v, stk, hstk⟩ := List.exists_cons_of_ne_nil (hs (.inl hz1))
    exact ⟨_, by rw [hstk]⟩
  case h_3 hz2 =>
    obtain ⟨v, stk, hstk⟩ := List.exists_cons_of_ne_nil (hs (.inr hz2))
    exact ⟨_, by rw [hstk]⟩
  case h_6 h0 h1 h2 h3 h4 =>
    simp only [imp_false] at h0 h1 h2 h3 h4
    omega

theorem inByte_unassigned (hz : 5 ≤ z.toNat) : inByte s z = .error .inputSelector := by
  unfold inByte
  split
  case h_6 => rfl
  all_goals omega

/-- The selectors 1 and 2 read the top of the stack. -/
theorem inByte_empty (hz : z.toNat = 1 ∨ z.toNat = 2) (hs : s.stk = []) :
    inByte s z = .error .stackUnderflow := by
  rcases hz with hz | hz <;> simp only [inByte, hz, hs]

end

/-! ### The words that read from a port -/

section

variable {i : Instr} {f : Fields} {s : State} {event : Option Byte → IoEvent}

theorem inputWord_of_error {r : Refusal} (h : inByte s (zNum f s) = .error r) :
    inputWord f s event = .refused r := by
  rw [inputWord, h]

/-- With a byte to read, an allowed input does its datapath step, takes the answer and emits. -/
theorem inputWord_of_allowed {v : Byte} (hv : inByte s (zNum f s) = .ok v) (hl : isLogic i = false)
    (hin : isInput i = true) (hok : FieldsOk i f) (ha : AddressOk f s) :
    inputWord f s event = .next (finish s .none (emit (event (takenByte (zNum f s) v))
      { datapath (.input v) f s with portIn := portAfter s (zNum f s) })) := by
  rw [inputWord, hv]
  exact withDatapath_of_allowed _ hl.symm hin.symm hok ha

theorem zNum_eq_zero_iff (f : Fields) (s : State) : zNum f s = 0 ↔ low f s % 16 = 0 := by
  rw [← BitVec.toNat_inj, zNum_toNat, BitVec.ofNat_eq_ofNat, BitVec.toNat_ofNat, Nat.zero_mod]

/-- An input with an assigned selector completes. -/
theorem inputWord_completes (hexec : exec i s = inputWord f s event) (hf : fieldsOf i = some f)
    (hl : isLogic i = false) (hin : isInput i = true) (hz : low f s % 16 ≤ 4)
    (hs : low f s % 16 = 1 ∨ low f s % 16 = 2 → s.stk ≠ []) (hok : FieldsOk i f) (ha : AddressOk f s) :
    ∃ t v, exec i s = .next t ∧ Ordinary i f s t ∧ v.toNat = inputByte (low f s % 16) s ∧
      special t = { special s with
        portIn := if low f s % 16 = 0 then s.portIn.tail else s.portIn
        trace := s.trace ++ [event (if low f s % 16 = 0 then some v else none)] } := by
  simp only [← zNum_eq_zero_iff]
  simp only [← zNum_toNat] at hz hs ⊢
  obtain ⟨v, hv⟩ := inByte_ok hz hs
  have h := hexec.trans (inputWord_of_allowed hv hl hin hok ha)
  exact ⟨_, v, h, ordinary_of_finish_none h hf rfl, inByte_toNat hv, rfl⟩

end

/-- Settles O51. Both words are `inputWord`, which completes where `inByte` gives a byte and stops by
its reason where it gives none. -/
theorem inputsComplete : Obligations.InputsComplete := by
  rintro f s _ rfl
  refine ⟨fun hz hs ha => ⟨fun hok => ?_, fun hok => ?_⟩, fun hz => ?_, fun hz hs => ?_⟩
  · exact inputWord_completes rfl rfl rfl rfl hz hs hok ha
  · exact inputWord_completes rfl rfl rfl rfl hz hs hok ha
  · have h := inByte_unassigned (s := s) ((zNum_toNat f s).symm ▸ hz)
    exact ⟨inputWord_of_error h, inputWord_of_error h⟩
  · have h := inByte_empty ((zNum_toNat f s).symm ▸ hz) hs
    exact ⟨inputWord_of_error h, inputWord_of_error h⟩

end Sys2Proof.Machine
end

section
/-!
ENABLE, DISABLE and RETURNI (60_exceptions.md R232, R233, R240, R241): ENABLE and DISABLE are plain words behind one
check; RETURNI is behind three, and line 0 decides whether it returns or chains.
-/

namespace Sys2Proof.Machine

open Spec

/-! ### ENABLE and DISABLE -/

section

variable {f : Fields} {s : State}

theorem exec_enable_of_allowed (hins : s.ins = false) (hok : FieldsOk (.enable f) f)
    (ha : AddressOk f s) :
    exec (.enable f) s = .next (finish s .none { datapath .plain f s with ie := true }) :=
  (if_neg (Bool.eq_false_iff.mp hins)).trans (withDatapath_of_allowed _ rfl rfl hok ha)

theorem exec_disable_of_allowed (hins : s.ins = false) (hok : FieldsOk (.disable f) f)
    (ha : AddressOk f s) :
    exec (.disable f) s = .next (finish s .none { datapath .plain f s with ie := false }) :=
  (if_neg (Bool.eq_false_iff.mp hins)).trans (withDatapath_of_allowed _ rfl rfl hok ha)

end

/-- Settles O45. Outside a handler both are ordinary words that write IE; the handler is their one check. -/
theorem enableDisableComplete : Obligations.EnableDisableComplete := by
  intro f s
  refine ⟨fun hins ha => ⟨fun hok => ?_, fun hok => ?_⟩, fun hins => ⟨if_pos hins, if_pos hins⟩⟩
  · have h := exec_enable_of_allowed hins hok ha
    exact ⟨_, h, ordinary_of_finish_none h rfl rfl, rfl⟩
  · have h := exec_disable_of_allowed hins hok ha
    exact ⟨_, h, ordinary_of_finish_none h rfl rfl, rfl⟩

/-! ### RETURNI, check by check -/

section

variable {f : Fields} {s t : State}

/-- The word RETURNI looks for, over whole numbers (60_exceptions.md R240; log 26). -/
theorem nopFollows_iff (s : State) :
    nopFollows s = true ↔ nextAddr s < s.cfg.pmemWords ∧ s.pmem.lookup (nextAddr s) = some 0 := by
  rw [nopFollows, toNat_pc_add_one, decide_eq_true_iff]
  refine ⟨programWord_some, fun ⟨hlt, hword⟩ => ?_⟩
  rw [programWord_of_lt hlt, hword]

theorem exec_returni_outside (hins : s.ins = false) :
    exec (.returni f) s = .refused .returniOutsideHandler :=
  if_pos hins

/-- In a handler the slot is the next check. -/
theorem exec_returni_inHandler (hins : s.ins = true) :
    exec (.returni f) s = outsideSlot s
      (if nopFollows s then
        withDatapath .plain f s fun u =>
          if s.irq0 then .next (finish s (.delayed1 2) (regUnknown u)) else .next (interruptReturn s u)
      else .refused .noNopAfterReturni) :=
  if_neg (by simp [hins])

theorem exec_returni_inSlot (hins : s.ins = true) (hp : s.pend ≠ none) :
    exec (.returni f) s = .refused .transferInSlot := by
  obtain ⟨p, hp⟩ := Option.ne_none_iff_exists'.mp hp
  exact (exec_returni_inHandler hins).trans (outsideSlot_of_some hp)

theorem exec_returni_without_nop (hins : s.ins = true) (hp : s.pend = none)
    (hnop : ¬ nopFollows s = true) : exec (.returni f) s = .refused .noNopAfterReturni :=
  (exec_returni_inHandler hins).trans ((outsideSlot_of_none hp).trans (if_neg hnop))

/-- Behind the three checks an allowed RETURNI does its datapath step, and line 0 decides how it goes on
(60_exceptions.md R240, R241). -/
theorem exec_returni_of_allowed (hins : s.ins = true) (hp : s.pend = none) (hnop : nopFollows s = true)
    (hok : FieldsOk (.returni f) f) (ha : AddressOk f s) :
    exec (.returni f) s =
      if s.irq0 then .next (finish s (.delayed1 2) (regUnknown (datapath .plain f s)))
      else .next (interruptReturn s (datapath .plain f s)) :=
  (exec_returni_inHandler hins).trans ((outsideSlot_of_none hp).trans
    ((if_pos hnop).trans (withDatapath_of_allowed _ rfl rfl hok ha)))

/-- RETURNI has a next state only in a handler. -/
theorem inHandler_of_exec_returni (h : exec (.returni f) s = .next t) : s.ins = true := by
  by_contra hins
  exact nomatch (exec_returni_outside (Bool.eq_false_iff.mpr hins)).symm.trans h

/-- With line 0 at 0 a RETURNI that completes returns (60_exceptions.md R240). -/
theorem exec_returni_returns (h : exec (.returni f) s = .next t) (h0 : s.irq0 = false) :
    t = interruptReturn s (datapath .plain f s) := by
  rw [exec_returni_inHandler (inHandler_of_exec_returni h)] at h
  obtain ⟨-, h⟩ := outsideSlot_next h
  split at h
  · obtain ⟨-, -, h⟩ := withDatapath_next h
    rw [h0] at h
    exact (Host.Outcome.next.inj h).symm
  · cases h

end

/-- Settles O46: the two completions are the two cases of `exec_returni_of_allowed`, the three refusals are the
three checks in their order. -/
theorem returniCompletes : Obligations.ReturniCompletes := by
  intro f s
  refine ⟨fun hins hp hlt hword hok ha => ?_, exec_returni_outside, exec_returni_inSlot,
    fun hins hp hno => exec_returni_without_nop hins hp fun hnop => ?_⟩
  · have hexec := exec_returni_of_allowed hins hp ((nopFollows_iff s).mpr ⟨hlt, hword⟩) hok ha
    refine ⟨fun h0 => ?_, fun h0 => ?_⟩
    · have h := hexec.trans (if_neg (Bool.eq_false_iff.mp h0))
      exact ⟨_, h, exec_datapath h rfl, rfl, rfl, rfl, rfl, rfl, rfl⟩
    · have h := hexec.trans (if_pos h0)
      exact ⟨_, h, exec_datapath h rfl, finish_delayed1_at s _ 2, rfl⟩
  · obtain ⟨hlt, hword⟩ := (nopFollows_iff s).mp hnop
    exact hno.elim (Nat.not_le.mpr hlt) (absurd hword)

end Sys2Proof.Machine
end

section
/-!
Acceptance of an interrupt (60_exceptions.md R235, R236, R239, R242): what a step does with a request that is
allowed, outside and inside a delayed transfer, and the instruction of grace after RETURNI.
-/

namespace Sys2Proof.Machine

open Spec

/-! ### The lines moving on -/

section

variable {s t : State}

/-- Where control stands does not depend on the interrupt lines. -/
theorem at_nextLines {pc : Nat} {pend : Option Delayed} {ind seq : Bool} (h : At t pc pend ind seq) :
    At (nextLines t) pc pend ind seq where
  pc := (congrArg BitVec.toNat (nextLines_pc t)).trans h.pc
  pend := (nextLines_pend t).trans h.pend
  ind := (nextLines_ind t).trans h.ind
  seq := (nextLines_seq t).trans h.seq
  gr := (nextLines_gr t).trans h.gr

theorem untouched_nextLines (h : Untouched s t) : Untouched s (nextLines t) where
  a := (nextLines_a t).trans h.a
  b := (nextLines_b t).trans h.b
  c := (nextLines_c t).trans h.c
  d := (nextLines_d t).trans h.d
  cf := (nextLines_cf t).trans h.cf
  zf := (nextLines_zf t).trans h.zf
  kept x := (congrArg (Memory.lookup · x) (nextLines_dmem t)).trans (h.kept x)

end

/-! ### Interrupt entry (60_exceptions.md R236, R239) -/

theorem interruptEntry_untouched (s : State) : Untouched s (interruptEntry s) :=
  ⟨rfl, rfl, rfl, rfl, rfl, rfl, fun _ => rfl⟩

theorem interruptEntry_at {s : State} (hp : s.pend = none) (hind : s.ind = false) (hgr : s.gr = false) :
    At (interruptEntry s) (if s.irq0 then 2 else 3) none false false where
  pc := by rw [interruptEntry_pc]; split <;> rfl
  pend := hp
  ind := hind
  seq := rfl
  gr := hgr

/-- The readable copy of the return address over whole numbers (60_exceptions.md R239). -/
theorem interruptEntry_irav_eq (s : State) :
    (interruptEntry s).irav =
      if s.seq then some (BitVec.ofNat 16 (s.pc.toNat + s.cfg.iraReadOffset)) else none := by
  simp [BitVec.ofNat_add]

/-! ### The boundary with a request that is allowed (60_exceptions.md R235) -/

section

variable {s : State}

theorem inTransfer_iff (s : State) : inTransfer s = true ↔ s.pend ≠ none ∨ s.ind = true := by
  simp [inTransfer, Option.isSome_iff_ne_none]

section

variable (h : Accept s)

include h

theorem step_enters (hp : s.pend = none) (hind : s.ind = false) :
    step s = .next (nextLines (interruptEntry s)) := by
  have hout : ¬ inTransfer s = true := by simp [inTransfer_iff, hp, hind]
  have hb : boundary s = .enter := (if_pos ((requestAllowed_iff s).mpr h)).trans (if_neg hout)
  rw [step, hb]
  rfl

/-- The entry's account of control alone. -/
theorem step_enters_saving_pc (hp : s.pend = none) (hind : s.ind = false) :
    ∃ u, step s = .next u ∧ u.ira = s.pc ∧ u.ins = true ∧ u.pc = if s.irq0 then 2 else 3 :=
  ⟨_, step_enters h hp hind, nextLines_ira _, nextLines_ins _, nextLines_pc _⟩

variable (hin : s.pend ≠ none ∨ s.ind = true)

include hin

/-- Inside a transfer IRQ_IN_SLOT decides (log 4). -/
theorem boundary_inTransfer :
    boundary s = if s.cfg.irqInSlot = .refuse then .refuse else .run :=
  (if_pos ((requestAllowed_iff s).mpr h)).trans
    ((if_pos ((inTransfer_iff s).mpr hin)).trans (by cases s.cfg.irqInSlot <;> rfl))

theorem step_refuses (hcfg : s.cfg.irqInSlot = .refuse) : step s = .refused .irqInTransfer := by
  rw [step, boundary_inTransfer h hin, if_pos hcfg]

theorem step_defers (hcfg : s.cfg.irqInSlot = .defer) : step s = afterStep (runInstruction s) := by
  rw [step, boundary_inTransfer h hin, if_neg (by simp [hcfg])]

end

end

/-- Settles O55, by what the entry does to each part of the state; what the lines do then is the only case
split. (The obligation's own name is that of the model's function.) -/
theorem interruptEntryStep : Obligations.InterruptEntry := by
  intro s h hp hind
  have ⟨_, _, _, hgr⟩ := h
  refine ⟨_, step_enters h hp hind, untouched_nextLines (interruptEntry_untouched s),
    at_nextLines (interruptEntry_at hp hind hgr), ?_⟩
  rw [← interruptEntry_irav_eq]
  cases hl : s.irqNext with
  | nil =>
    rw [nextLines_held (interruptEntry s) hl, special, interruptEntry_irqNext, hl]
    rfl
  | cons l rest =>
    rw [nextLines_moved (interruptEntry s) l.1 l.2 rest hl]
    rfl

/-- Settles O56. What the boundary does is `step_refuses` and `step_defers`; the step after needs nothing of
this one, for its own hypotheses are those of the entry. -/
theorem requestInsideTransfer : Obligations.RequestInsideTransfer := by
  intro s h hin
  refine ⟨step_refuses h hin, fun hcfg => ⟨?_, fun t _ ht hp hind => step_enters_saving_pc ht hp hind⟩⟩
  rw [step_defers h hin hcfg, runInstruction]
  cases fetchInstr s with
  | next i =>
    dsimp only
    cases exec i s <;> rfl
  | fault x => rfl
  | refused r => rfl

/-! ### The instruction of grace (60_exceptions.md R242) -/

/-- Under grace the step is the instruction at pc. -/
theorem step_next_of_grace {s t : State} (hgr : s.gr = true) (h : step s = .next t) :
    ∃ i u, fetchInstr s = .next i ∧ exec i s = .next u ∧ t = nextLines u := by
  obtain ⟨hb, -⟩ | ⟨-, hrun⟩ := step_next h
  · obtain ⟨-, -, -, hno, -, -⟩ := boundary_enter hb
    exact nomatch hgr.symm.trans hno
  · exact hrun

/-- Outside a handler an instruction that completes enters none and uses up the grace (10_state.md R26). -/
theorem exec_outsideHandler {i : Instr} {s t : State} (h : exec i s = .next t) (hins : s.ins = false) :
    t.ins = false ∧ t.gr = false := by
  have hi : ∀ f, i ≠ .returni f := by
    rintro f rfl
    exact nomatch hins.symm.trans (inHandler_of_exec_returni h)
  obtain ⟨hkeep, hgr⟩ := (exec_next h).service_eq hi
  exact ⟨hkeep.trans hins, hgr⟩

/-- Settles O57. The grace RETURNI leaves holds the first step to the instruction at IRA; that step uses it up
outside the handler, so the next is free to enter. -/
theorem oneInstructionAfterReturni : Obligations.OneInstructionAfterReturni := by
  intro f s t t' u l0 l1 rest h h0 ht' hstep
  obtain rfl := exec_returni_returns h h0
  subst ht'
  obtain ⟨i, v, hfetch, hexec, rfl⟩ := step_next_of_grace rfl hstep
  refine ⟨⟨i, v, rfl, hfetch, hexec, rfl⟩, fun hirq hie hp hind => ?_⟩
  obtain ⟨hins, hgr⟩ := exec_outsideHandler hexec rfl
  have haccept : Accept (nextLines v) :=
    ⟨hirq, hie, (nextLines_ins v).trans hins, (nextLines_gr v).trans hgr⟩
  exact step_enters_saving_pc haccept hp hind

end Sys2Proof.Machine
end


section
/-!
The end of a run (70_reset_and_hazards.md R270): the jump to itself, fetched and executed; and the derived cycle
counts (R272).
-/

namespace Sys2Proof.Machine

open Spec

section

variable {halt : Addr} {s : State}

/-! ### The jump to itself -/

theorem not_accept_of_lines_low (h0 : s.irq0 = false) (h1 : s.irq1 = false) : ¬ Accept s := by
  simp [Accept, h0, h1]

/-- At the end of a run the fetch gives the jump to itself, whichever half HL names. -/
theorem runInstruction_ended (h : EndsNormally halt s) (hne : halt ≠ 1)
    (hsize : halt.toNat < s.cfg.pmemWords) : runInstruction s = exec (.jb false halt) s := by
  obtain ⟨rfl, -, hind, -, hword⟩ := h
  have hreach : addressOneRefusal s (encode s.cfg.variantBit (.jb false s.pc)) = none :=
    addressOneRefusal_eq_none (by simp [hind]) fun _ => hne
  exact runInstruction_of_decoded (fetchWord_of_lookup hsize hword) hreach
    (decode_encode_of_addressRow .branch _ s.hl true false s.pc)

/-- What the jump to itself makes of the state. -/
def selfJump (halt : Addr) (s : State) : State := finish s (.now halt) (addressDatapath false s)

theorem exec_selfJump (hp : s.pend = none) : exec (.jb false halt) s = .next (selfJump halt s) :=
  branchWord_ok (.now halt) hp

theorem selfJump_untouched (halt : Addr) (s : State) : Untouched s (selfJump halt s) :=
  ⟨rfl, rfl, rfl, rfl, rfl, rfl, fun _ => rfl⟩

theorem special_selfJump (halt : Addr) (s : State) : special (selfJump halt s) = special s := rfl

/-- The jump to itself lands on itself with nothing in flight; to address 1 it would set IND. -/
theorem selfJump_ended (h : EndsNormally halt s) (hne : halt ≠ 1) : EndsNormally halt (selfJump halt s) := by
  obtain ⟨-, -, -, hins, hword⟩ := h
  exact ⟨rfl, rfl, decide_eq_false hne, hins, hword⟩

/-- With both lines low and staying so, the step of a run that has ended is the jump to itself. -/
theorem step_ended (h : EndsNormally halt s) (hne : halt ≠ 1) (hsize : halt.toNat < s.cfg.pmemWords)
    (h0 : s.irq0 = false) (h1 : s.irq1 = false) (hlines : s.irqNext = []) :
    step s = .next (selfJump halt s) := by
  have ⟨_, hp, _⟩ := h
  have hheld : nextLines (selfJump halt s) = selfJump halt s := nextLines_held _ hlines
  rw [step_of_not_accept (not_accept_of_lines_low h0 h1), runInstruction_ended h hne hsize,
    exec_selfJump hp, afterStep, hheld]

end

/-- Settles O59, by the three laws of `selfJump`, which the step is. -/
theorem endedRunSpins : Obligations.EndedRunSpins := fun halt s h hne hsize h0 h1 hlines =>
  ⟨selfJump halt s, step_ended h hne hsize h0 h1 hlines, selfJump_ended h hne,
    selfJump_untouched halt s, special_selfJump halt s⟩

/-! ### The derived cycle counts (70_reset_and_hazards.md R272) -/

/-- Settles O60. The two undefined opcodes, which have no count, do not complete; RETURNI and the five
instructions that stall are the ones the second clause leaves out. -/
theorem cycleCounts : Obligations.CycleCounts := by
  intro i s t h hind
  have hpass : ¬ s.ind = true := by simp [hind]
  rw [cycles.eq_def, if_neg hpass]
  refine ⟨?_, fun hjump hreturn hstart => ?_⟩
  · rintro (⟨l, g, rfl | rfl⟩ | ⟨f, rfl⟩ | ⟨k, p, rfl | rfl⟩) <;> rfl
  · cases i with
    | jb l g => exact absurd rfl (hjump l g).1
    | jcall l g => exact absurd rfl (hjump l g).2
    | jret f => exact absurd rfl (hreturn f).1
    | returni f => exact absurd rfl (hreturn f).2
    | compressedUpper k p => exact absurd rfl (hstart k p).1
    | compressedLower k p => exact absurd rfl (hstart k p).2
    | undefined15 f | undefined31 f => nomatch h
    | _ => rfl

end Sys2Proof.Machine
end
